-- ==== Sys2Proof/Word.lean ====
section
/-! DEFINITION. The value types of ZI-CORE: bytes, words, letter codes, rotor slots (00_scope R11, R12). -/

namespace Sys2Proof

/-- A byte: 8 bits (R11). -/
abbrev Byte := BitVec 8

/-- A word: 32 bits, unsigned; its `+` and `-` are the spec's `+32` and `−32` (R11, R170). -/
abbrev Word := BitVec 32

/-- A letter code, a notch, a start or a position: an integer 0 to 25 (R12, R22, R23). -/
abbrev Letter := Fin 26

/-- A rotor slot: 0 leftmost and slowest, 2 rightmost and fastest (R9 `NSLOT`, R21). -/
abbrev Slot := Fin 3

/-- A table of the permutation bank: 26 letter codes indexed by a letter code (20_memory R54). -/
abbrev Table := Vector Letter 26

/-- The four words of a key (R9 `KW`, R27). -/
abbrev Key := Vector Word 4

end Sys2Proof
end

