-- ==== Sys2Proof/Config.lean ====
section
/-! DEFINITION. The implementation parameters of 00_scope R9, and the free values. -/

namespace Sys2Proof

/-- The three named readings of the OPEN parameter `PLUG_OVERLAP`: what a plugboard pair that
reuses a letter does (R9, 40_permutation_bank R107, 92 D12). -/
inductive PlugOverlap
  | indexExchange
  | assign
  | valueExchange
deriving DecidableEq, Repr

namespace Config

/-- `ALIGN_OFS` (R9, R103): "preserve exactly". -/
def alignOfs : Nat := 19

/-- `DELTA` (R9, R173). -/
def delta : Word := 0x9E3779B9#32

/-- `SUM0`, the start value of `sum` (R9, R174; 92 D44: the spec's own decision; log 10). -/
def sum0 : Word := 0#32

/-- `BS_MIN` (R9). -/
def bsMin : Nat := 8

/-- `BS_MAX` (R9, D19; log 10). -/
def bsMax : Nat := 1024

/-- `MAX_LEN` (R9, D6; log 10). -/
def maxLen : Nat := 1048575

/-- `NW_MAX`, the capacity of `V` in words (R9, D6; log 10). -/
def nwMax : Nat := 262145

/-- `WS`, the bytes that separate plugboard tokens (R9, D11; log 10). -/
def ws : List Byte := [0x09#8, 0x0A#8, 0x0B#8, 0x0C#8, 0x0D#8, 0x20#8]

/-- FREE VALUE (log 7): the index an inverse lookup takes of a letter that stands nowhere in the
table. R102 gives "the unique index", which exists in every state a run can reach. -/
opaque absentIndex : Table → Letter → Letter

end Config
end Sys2Proof
end

