-- ==== Sys2Proof/Syntax.lean ====
section
/-! DEFINITION. The 24 commands of ZI-CORE (30_encoding R74), one constructor per row of the opcode map. -/

namespace Sys2Proof

/-- A decoded command word: `s` is the slot field, `il` the `include_length` flag, `len` the free
`LEN` field of the rows that have one (R70, R71). The payload is not part of it: it comes on `DIN`. -/
inductive Instr
  | nop
  | encfg (len : BitVec 20)
  | rfwd (slot : Slot)
  | rinv (slot : Slot)
  | raln (slot : Slot)
  | refl
  | plug
  | fchain
  | ichain
  | erst
  | estep
  | estrm (len : BitVec 20)
  | enige (len : BitVec 20)
  | enigd (len : BitVec 20)
  | pack (il : Bool) (len : BitVec 20)
  | unpack (il : Bool)
  | xkey (len : BitVec 20)
  | xenc
  | xdec
  | xxenc (il : Bool) (len : BitVec 20)
  | xxdec (il : Bool) (len : BitVec 20)
  | cfbcfg (len : BitVec 20)
  | cfbenc (len : BitVec 20)
  | cfbdec (len : BitVec 20)
deriving DecidableEq, Repr

/-- One transaction: the command word and the payload bytes the host presents with it (R8, R70). -/
structure Command where
  word : Word
  payload : List Byte
deriving DecidableEq, Repr

end Sys2Proof
end

