-- ==== Sys2Proof/WellFormed.lean ====
section
/-! DEFINITION. What makes an instruction with its payload, and a transaction, well formed.

The types of `Instr` admit no ill-formed operand field (a slot is 0, 1 or 2; `il` is one bit; `LEN`
has 20 bits). What a term can get wrong is the payload that comes with it. -/

namespace Sys2Proof

/-- The number of payload bytes of a command: fixed by its row, or its `LEN` field (R72, R74). -/
def Instr.payloadLen : Instr → Nat
  | .nop | .raln _ | .erst | .estep | .unpack _ | .xenc | .xdec => 0
  | .rfwd _ | .rinv _ | .refl | .plug | .fchain | .ichain => 1
  | .encfg n | .estrm n | .enige n | .enigd n | .pack _ n | .xkey n => n.toNat
  | .xxenc _ n | .xxdec _ n | .cfbcfg n | .cfbenc n | .cfbdec n => n.toNat

/-- The payload fits the instruction: it has exactly `LEN` bytes (R72). -/
def Instr.wf (i : Instr) (payload : List Byte) : Bool :=
  payload.length == i.payloadLen

/-- A transaction is a word and exactly `LEN` = `word[19:0]` payload bytes (R8, R70). -/
def Command.wf (c : Command) : Bool :=
  c.payload.length == (c.word.extractLsb' 0 20).toNat

end Sys2Proof
end

