-- ==== Sys2Proof/Decode.lean ====
section
/-! DEFINITION. Decoding a command word, total and by name (30_encoding R70 to R78), the opcode map
as data (R74), and the encoder. -/

namespace Sys2Proof

/-- `OPC` = bits [31:24] (R70). -/
def opcField (w : Word) : BitVec 8 := w.extractLsb' 24 8

/-- `ARG` = bits [23:20] (R70). -/
def argField (w : Word) : BitVec 4 := w.extractLsb' 20 4

/-- `LEN` = bits [19:0] (R70). -/
def lenField (w : Word) : BitVec 20 := w.extractLsb' 0 20

/-- Why a word selects no row of the opcode map (R76): every case is the soft `E_ILLEGAL` (R227). -/
inductive Illegal
  | opcode
  | argument
  | slot
  | length
deriving DecidableEq, Repr

/-- Decode (R75): a total function of the word alone. The row is found by `OPC`; then `ARG` and `LEN`
must be what the row wants (R71, R72, R76). -/
def decode (w : Word) : Except Illegal Instr :=
  match (opcField w).toNat with
  | 0x00 => plain (fixed 0 .nop)
  | 0x10 => plain (.ok (.encfg (lenField w)))
  | 0x11 => slotted fun k => fixed 1 (.rfwd k)
  | 0x12 => slotted fun k => fixed 1 (.rinv k)
  | 0x13 => slotted fun k => fixed 0 (.raln k)
  | 0x14 => plain (fixed 1 .refl)
  | 0x15 => plain (fixed 1 .plug)
  | 0x16 => plain (fixed 1 .fchain)
  | 0x17 => plain (fixed 1 .ichain)
  | 0x20 => plain (fixed 0 .erst)
  | 0x21 => plain (fixed 0 .estep)
  | 0x22 => plain (.ok (.estrm (lenField w)))
  | 0x23 => plain (.ok (.enige (lenField w)))
  | 0x24 => plain (.ok (.enigd (lenField w)))
  | 0x30 => flagged fun il => .ok (.pack il (lenField w))
  | 0x31 => flagged fun il => fixed 0 (.unpack il)
  | 0x40 => plain (.ok (.xkey (lenField w)))
  | 0x41 => plain (fixed 0 .xenc)
  | 0x42 => plain (fixed 0 .xdec)
  | 0x43 => flagged fun il => .ok (.xxenc il (lenField w))
  | 0x44 => flagged fun il => .ok (.xxdec il (lenField w))
  | 0x50 => plain (.ok (.cfbcfg (lenField w)))
  | 0x51 => plain (.ok (.cfbenc (lenField w)))
  | 0x52 => plain (.ok (.cfbdec (lenField w)))
  | _ => .error .opcode
where
  /-- R71 (c): `ARG` must be 0. -/
  plain (k : Except Illegal Instr) : Except Illegal Instr :=
    if argField w = 0#4 then k else .error .argument
  /-- R71 (b): `ARG[0]` is `il`, `ARG[3:1]` must be 0. -/
  flagged (k : Bool → Except Illegal Instr) : Except Illegal Instr :=
    if argField w = 0#4 then k false
    else if argField w = 1#4 then k true
    else .error .argument
  /-- R71 (a): `ARG[1:0]` is the slot, 0, 1 or 2; `ARG[3:2]` must be 0. -/
  slotted (k : Slot → Except Illegal Instr) : Except Illegal Instr :=
    if argField w = 0#4 then k 0
    else if argField w = 1#4 then k 1
    else if argField w = 2#4 then k 2
    else if argField w = 3#4 then .error .slot
    else .error .argument
  /-- R72: the row takes one `LEN` only. -/
  fixed (n : BitVec 20) (i : Instr) : Except Illegal Instr :=
    if lenField w = n then .ok i else .error .length

/-- The integer `OPC · 2^24 + ARG · 2^20 + LEN` as a word (R70). -/
def commandWord (opc : BitVec 8) (arg : BitVec 4) (len : BitVec 20) : Word :=
  opc ++ arg ++ len

/-- The `il` flag as an `ARG` value (R71). -/
def ilArg (il : Bool) : BitVec 4 := if il then 1#4 else 0#4

/-- The slot as an `ARG` value (R71). -/
def slotArg (k : Slot) : BitVec 4 := BitVec.ofNat 4 k.val

/-- The command word of an instruction (R74). -/
def encode : Instr → Word
  | .nop => commandWord 0x00#8 0#4 0#20
  | .encfg n => commandWord 0x10#8 0#4 n
  | .rfwd k => commandWord 0x11#8 (slotArg k) 1#20
  | .rinv k => commandWord 0x12#8 (slotArg k) 1#20
  | .raln k => commandWord 0x13#8 (slotArg k) 0#20
  | .refl => commandWord 0x14#8 0#4 1#20
  | .plug => commandWord 0x15#8 0#4 1#20
  | .fchain => commandWord 0x16#8 0#4 1#20
  | .ichain => commandWord 0x17#8 0#4 1#20
  | .erst => commandWord 0x20#8 0#4 0#20
  | .estep => commandWord 0x21#8 0#4 0#20
  | .estrm n => commandWord 0x22#8 0#4 n
  | .enige n => commandWord 0x23#8 0#4 n
  | .enigd n => commandWord 0x24#8 0#4 n
  | .pack il n => commandWord 0x30#8 (ilArg il) n
  | .unpack il => commandWord 0x31#8 (ilArg il) 0#20
  | .xkey n => commandWord 0x40#8 0#4 n
  | .xenc => commandWord 0x41#8 0#4 0#20
  | .xdec => commandWord 0x42#8 0#4 0#20
  | .xxenc il n => commandWord 0x43#8 (ilArg il) n
  | .xxdec il n => commandWord 0x44#8 (ilArg il) n
  | .cfbcfg n => commandWord 0x50#8 0#4 n
  | .cfbenc n => commandWord 0x51#8 0#4 n
  | .cfbdec n => commandWord 0x52#8 0#4 n

/-- A row of the opcode map of R74: the word `W` selects it when `W AND mask = match`, and on a slot
row `W[21:20] ≠ 3` as well (R75). -/
structure OpcodeRow where
  matchBits : Word
  mask : Word
  slotRow : Bool
deriving DecidableEq, Repr

/-- `W` selects the row (R74, R75). -/
def OpcodeRow.selects (r : OpcodeRow) (w : Word) : Bool :=
  w &&& r.mask == r.matchBits && (!r.slotRow || w.extractLsb' 20 2 != 3#2)

/-- The row of the opcode map (R74) that an instruction's words select. -/
def Instr.row : Instr → OpcodeRow
  | .nop => ⟨0x00000000#32, 0xFFFFFFFF#32, false⟩
  | .encfg _ => ⟨0x10000000#32, 0xFFF00000#32, false⟩
  | .rfwd _ => ⟨0x11000001#32, 0xFFCFFFFF#32, true⟩
  | .rinv _ => ⟨0x12000001#32, 0xFFCFFFFF#32, true⟩
  | .raln _ => ⟨0x13000000#32, 0xFFCFFFFF#32, true⟩
  | .refl => ⟨0x14000001#32, 0xFFFFFFFF#32, false⟩
  | .plug => ⟨0x15000001#32, 0xFFFFFFFF#32, false⟩
  | .fchain => ⟨0x16000001#32, 0xFFFFFFFF#32, false⟩
  | .ichain => ⟨0x17000001#32, 0xFFFFFFFF#32, false⟩
  | .erst => ⟨0x20000000#32, 0xFFFFFFFF#32, false⟩
  | .estep => ⟨0x21000000#32, 0xFFFFFFFF#32, false⟩
  | .estrm _ => ⟨0x22000000#32, 0xFFF00000#32, false⟩
  | .enige _ => ⟨0x23000000#32, 0xFFF00000#32, false⟩
  | .enigd _ => ⟨0x24000000#32, 0xFFF00000#32, false⟩
  | .pack _ _ => ⟨0x30000000#32, 0xFFE00000#32, false⟩
  | .unpack _ => ⟨0x31000000#32, 0xFFEFFFFF#32, false⟩
  | .xkey _ => ⟨0x40000000#32, 0xFFF00000#32, false⟩
  | .xenc => ⟨0x41000000#32, 0xFFFFFFFF#32, false⟩
  | .xdec => ⟨0x42000000#32, 0xFFFFFFFF#32, false⟩
  | .xxenc _ _ => ⟨0x43000000#32, 0xFFE00000#32, false⟩
  | .xxdec _ _ => ⟨0x44000000#32, 0xFFE00000#32, false⟩
  | .cfbcfg _ => ⟨0x50000000#32, 0xFFF00000#32, false⟩
  | .cfbenc _ => ⟨0x51000000#32, 0xFFF00000#32, false⟩
  | .cfbdec _ => ⟨0x52000000#32, 0xFFF00000#32, false⟩

/-- One instruction of each row, in the table's order. -/
def rowRepresentatives : List Instr :=
  [.nop, .encfg 0, .rfwd 0, .rinv 0, .raln 0, .refl, .plug, .fchain, .ichain, .erst, .estep,
   .estrm 0, .enige 0, .enigd 0, .pack false 0, .unpack false, .xkey 0, .xenc, .xdec,
   .xxenc false 0, .xxdec false 0, .cfbcfg 0, .cfbenc 0, .cfbdec 0]

/-- The opcode map (R74): its 24 rows in order. -/
def opcodeMap : List OpcodeRow := rowRepresentatives.map Instr.row

/-- `n` bytes of `v`, the least significant first: how a number whose bit 0 is the first bit lies on
a byte stream. -/
def bytesLE : (n v : Nat) → List Byte
  | 0, _ => []
  | n + 1, v => BitVec.ofNat 8 v :: bytesLE n (v / 256)

/-- The transaction whose bits are `w`: the command word is bits 31..0 (a value with no byte order,
20_memory R56), its payload the bytes from bit 32 up; bits at and above `nbits` are 0 (log 16). -/
def transactionOfBits (nbits w : Nat) : Command :=
  let word := BitVec.ofNat 32 (w % 2 ^ nbits)
  { word := word, payload := bytesLE (lenField word).toNat (w % 2 ^ nbits / 2 ^ 32) }

/-- The instruction the decoder reads from an instruction whose bits are `w`. -/
def decodeTableWord (nbits w : Nat) : Option Instr :=
  (decode (transactionOfBits nbits w).word).toOption

end Sys2Proof
end

