-- ==== Sys2Proof/Machine/State.lean ====
section
/-! DEFINITION. The architectural state of ZI-CORE (10_state R20 to R41), its reset, and the named reasons
a step can stop. -/

namespace Sys2Proof.Machine

/-- The errors a command can end with (60_exceptions R230). They are outcomes of the machine, not of the
model: a command that raises one has a next state (R222, R223). -/
inductive Err
  | config
  | corrupt
  | invariant
  | contract
  | illegal
  | noInst
  | empty
deriving DecidableEq, Repr

/-- The three instances a command may need: Enigma (`EV`), Xxtea (`XV`), XxteaCfb (`CV`) (R26 to R28, R228). -/
inductive CipherUnit
  | enigma
  | xxtea
  | cfb
deriving DecidableEq, Repr

/-- The fields of `STATUS` that are stored (R30). Bits [31:8] are reserved, read as 0 and are never
written, so they have no storage; the 32-bit register the host reads is `Status.word`. -/
structure Status where
  /-- [3:0], the code of the most recently retired command -/
  err : BitVec 4
  /-- [4], Enigma instance constructed -/
  ev : Bool
  /-- [5], Xxtea instance constructed -/
  xv : Bool
  /-- [6], XxteaCfb instance constructed -/
  cv : Bool
  /-- [7], a fatal error has occurred since reset, sticky -/
  fatal : Bool
deriving DecidableEq, Repr

/-- What the host can do to the block, one action at a time (R7, R240, R242; log 3, log 6). -/
inductive HostAction
  /-- present a command word with its payload -/
  | command (c : Command)
  /-- present a command and assert `rst` while it is executing (R242) -/
  | commandThenReset (c : Command)
  /-- assert and release `rst` while no command is executing (R240) -/
  | reset
deriving DecidableEq, Repr

/-- The whole state of the block (R20), with the model's own fields last. -/
structure State where
  /-- `RW[s]`, the rotor wiring tables (R21) -/
  rw : Vector Table 3
  /-- `NOTCH[s]` (R22) -/
  notch : Vector Letter 3
  /-- `START[s]` (R22) -/
  start : Vector Letter 3
  /-- `REF`, the reflector table (R24) -/
  ref : Table
  /-- `PLG`, the plugboard table (R25) -/
  plg : Table
  /-- `POS[s]`, the rotor positions, kept mod 26 (R23) -/
  pos : Vector Letter 3
  /-- `XK[0..3]`, the key of the Xxtea instance (R27) -/
  xk : Key
  /-- `CK[0..3]`, the key of the XxteaCfb instance (R28) -/
  ck : Key
  /-- `BS`, the CFB block size in bytes (R28) -/
  bs : Nat
  /-- `IVB[0 .. BS)` (R28) -/
  ivb : List Byte
  /-- `V[0 .. N)`, the words of the word array that have a value (R29) -/
  v : List Word
  /-- `STATUS` (R30) -/
  status : Status
  /-- `OUTLEN` (R31) -/
  outlen : BitVec 32
  /-- `CSEQ` (R32, R41) -/
  cseq : BitVec 32
  /-- `DOUT`, the result of the most recently retired command (R33) -/
  dout : List Byte
  /-- `DIN`, the payload of the command being executed; empty between commands (R33; log 13) -/
  din : List Byte
  /-- model's own: what the host will do, in order (log 3) -/
  host : List HostAction
  /-- model's own: the OPEN parameter `PLUG_OVERLAP`, fixed for the machine (R9, R107; log 2) -/
  plugOverlap : PlugOverlap
deriving DecidableEq, Repr

/-- `N`, the current length of the word array (R29; log 9). -/
def State.n (s : State) : Nat := s.v.length

/-- Reasons the machine stops with a fault. -/
inductive Fault
  /-- Raised by a command whose payload in hand is not exactly `LEN` bytes. No transaction of the spec is
  like that (R8, R72: `LEN` is the exact number of payload bytes); it is the host that broke the
  interface. SAFE: the model stops and shows no behaviour (log 4). -/
  | payloadLength
deriving DecidableEq, Repr

/-- Reasons an instruction has no meaning. -/
inductive Refusal
  /-- The instruction is not modelled. No arm of `exec` raises it. SAFE: the model stops. -/
  | notModelled (mnemonic : String)
deriving DecidableEq, Repr

/-- The machine right after reset (R39, R240). `STATUS`, `OUTLEN`, `CSEQ`, `DOUT` and `N` are as the spec
says. The spec gives no value to the tables, `NOTCH`, `START`, `POS`, `XK`, `CK`, `BS`, `IVB`: DESIGN CHOICE
zero (log 1, unsafe), unreadable while `EV` = `XV` = `CV` = 0. `PLUG_OVERLAP` is at the default the spec
names (log 2). -/
def State.reset : State where
  rw := Vector.replicate 3 (Vector.replicate 26 0)
  notch := Vector.replicate 3 0
  start := Vector.replicate 3 0
  ref := Vector.replicate 26 0
  plg := Vector.replicate 26 0
  pos := Vector.replicate 3 0
  xk := Vector.replicate 4 0#32
  ck := Vector.replicate 4 0#32
  bs := 0
  ivb := []
  v := []
  status := { err := 0#4, ev := false, xv := false, cv := false, fatal := false }
  outlen := 0#32
  cseq := 0#32
  dout := []
  din := []
  host := []
  plugOverlap := .indexExchange

end Sys2Proof.Machine
end

