-- ==== Sys2Proof/Machine/Flags.lean ====
section
/-! DEFINITION. The flags of the block: the `STATUS` register as the host reads it, the error codes and
kinds, the valid flags, and the alignment predicates (10_state R30, R34; 60_exceptions R230; R103). -/

namespace Sys2Proof.Machine

/-- The code of an error in `STATUS.ERR` (R230). -/
def Err.code : Err → BitVec 4
  | .config => 1#4
  | .corrupt => 2#4
  | .invariant => 3#4
  | .contract => 4#4
  | .illegal => 5#4
  | .noInst => 6#4
  | .empty => 7#4

/-- The fatal errors are `E_INVARIANT` and `E_CONTRACT`; the others are soft (R230). -/
def Err.isFatal : Err → Bool
  | .invariant | .contract => true
  | .config | .corrupt | .illegal | .noInst | .empty => false

/-- `STATUS` as the host reads it (R30): `ERR` [3:0], `EV` [4], `XV` [5], `CV` [6], `FATAL` [7], and
[31:8] read as 0. -/
def Status.word (t : Status) : Word :=
  0#24 ++ BitVec.ofBool t.fatal ++ BitVec.ofBool t.cv ++ BitVec.ofBool t.xv ++ BitVec.ofBool t.ev ++ t.err

/-- The valid flag of an instance (R228). -/
def Status.valid (t : Status) : CipherUnit → Bool
  | .enigma => t.ev
  | .xxtea => t.xv
  | .cfb => t.cv

/-- `aligned(s)`: `POS[s] mod 26 = (NOTCH[s] + 19) mod 26` (R103). -/
def State.aligned (s : State) (k : Slot) : Bool :=
  s.pos[k].val % 26 == (s.notch[k].val + Config.alignOfs) % 26

end Sys2Proof.Machine
end

