-- ==== Sys2Proof/Machine/Ops.lean ====
section
/-! DEFINITION. How a command starts and ends: `retire` and `raise` (60_exceptions R220 to R223), the checks
in front of every command (R232), acceptance of a transaction, and reset. -/

namespace Sys2Proof.Machine

/-- What every retirement writes (R221 to R223): the result, its length, the error code, one more retired
command; and the payload is gone with its command (R33). `FATAL` is set by a fatal error and is sticky. -/
def State.endCommand (s : State) (out : List Byte) (err : BitVec 4) (fatal : Bool) : State :=
  { s with
    dout := out
    outlen := BitVec.ofNat 32 out.length
    status := { s.status with err := err, fatal := s.status.fatal || fatal }
    cseq := s.cseq + 1#32
    din := [] }

/-- `retire(out)`, the normal end (R221). -/
def State.retire (s : State) (out : List Byte) : State :=
  s.endCommand out 0#4 false

/-- TAKING AN EXCEPTION: `raise <E>` (R222 soft, R223 fatal). It is applied to the state as it was before the
command, so every write of the command is discarded. No state is saved and control goes nowhere (R234);
there is no return from it (R235), only the next command or, after a fatal error, reset. -/
def State.raise (s : State) (e : Err) : State :=
  s.endCommand [] e.code e.isFatal

/-- What a command's pseudocode comes to: `raise <E>`, or the state it wrote and what it retires with. -/
abbrev CommandEnd := Except Err (State × List Byte)

/-- End the command that began in state `s` as its pseudocode came out (R220). -/
def State.finish (s : State) : CommandEnd → State
  | .ok r => r.1.retire r.2
  | .error e => s.raise e

/-- The valid-flag check of a command (R228, R232 item 3). `none`: the command needs no instance. -/
def State.hasInstance (s : State) : Option CipherUnit → Bool
  | none => true
  | some u => s.status.valid u

/-- The frame of every legal command (R100, R232): not accepted while `FATAL` = 1, then nothing happens;
`E_NOINST` if its instance is missing; else its pseudocode `body`, over the state and `DIN[0 .. LEN)`.
A payload in hand that is not `LEN` bytes is no transaction (R72): the fault of log 4. -/
def runCommand (len : Nat) (unit : Option CipherUnit) (s : State)
    (body : State → List Byte → CommandEnd) : Host.Outcome State Fault Refusal :=
  if s.status.fatal then .next s
  else if s.din.length ≠ len then .fault .payloadLength
  else if s.hasInstance unit then .next (s.finish (body s s.din))
  else .next (s.raise .noInst)

/-- An illegal word (R76, R227): its payload bytes are consumed and dropped, and it ends with the soft
`E_ILLEGAL`. -/
def execIllegal (len : BitVec 20) (s : State) : Host.Outcome State Fault Refusal :=
  runCommand len.toNat none s fun _ _ => .error .illegal

/-- The next action of the host is behind it (log 3). -/
def State.withHost (s : State) (rest : List HostAction) : State := { s with host := rest }

/-- Acceptance of a command (R33, R51): its payload is `DIN` until it ends. -/
def State.accept (s : State) (payload : List Byte) : State := { s with din := payload }

/-- Reset (R240, R242): every register as after reset, whatever the block was doing. The host's further
actions and the implementation parameter are no registers of the block. -/
def State.takeReset (s : State) : State :=
  { State.reset with host := s.host, plugOverlap := s.plugOverlap }

end Sys2Proof.Machine
end

