-- ==== Sys2Proof/Machine/Operands.lean ====
section
/-! DEFINITION. Every operand form (30_encoding R73): the letter byte, message bytes, numbers in a payload
(`MemRead`), and the two configuration records (R80, R81) with the checks of construction
(40_permutation_bank R110 to R112, 44_cfb_controller R201). -/

namespace Sys2Proof.Machine

/-- `is_lower(b)` (00_scope R12). -/
def isLower (b : Byte) : Bool := 0x61#8 ≤ b && b ≤ 0x7A#8

/-- `is_letter(b)` (R12). -/
def isLetter (b : Byte) : Bool := (0x41#8 ≤ b && b ≤ 0x5A#8) || (0x61#8 ≤ b && b ≤ 0x7A#8)

/-- `lc(b)` (R12). -/
def lc (b : Byte) : Byte := if 0x41#8 ≤ b && b ≤ 0x5A#8 then b + 0x20#8 else b

/-- A number as a letter code: 0 to 25, else none. -/
def letterOfNat (n : Nat) : Option Letter := if h : n < 26 then some ⟨n, h⟩ else none

/-- The letter code `b − 0x61` of a lowercase letter, none for any other byte (R12, R122). -/
def letterCode (b : Byte) : Option Letter := if isLower b then letterOfNat (b.toNat - 0x61) else none

/-- The byte `0x61 + c` of a letter code (R12). -/
def letterByte (c : Letter) : Byte := BitVec.ofNat 8 (0x61 + c.val)

/-- `letter_operand(DIN[0])` (R122): the letter code, or the fatal `E_CONTRACT`. No case folding. -/
def letterOperand (din : List Byte) : Except Err Letter :=
  match din.head?.bind letterCode with
  | some x => .ok x
  | none => .error .contract

/-- The sub-string `b[i .. j)` (R12). -/
def slice (i j : Nat) (b : List Byte) : List Byte := (b.drop i).take (j - i)

/-- The little-endian integer of a byte string: `Σ b[i] · 256^i`. -/
def natOfBytesLE : List Byte → Nat
  | [] => 0
  | b :: rest => b.toNat + 256 * natOfBytesLE rest

/-- `MemRead(a, n)` (R13): `n` payload bytes from offset `a`, little-endian. -/
def memRead (din : List Byte) (a n : Nat) : Nat := natOfBytesLE (slice a (a + n) din)

/-- The wiring check and the table it gives (R110): exactly 26 lowercase letters, no two equal; not
checked for involution. -/
def wiringTable (w : List Byte) : Option Table :=
  match w.mapM letterCode with
  | none => none
  | some cs => if h : cs.length = 26 then (if cs.Nodup then some ⟨cs.toArray, by simpa using h⟩ else none) else none

/-- The tokens of the plugboard string: its maximal runs of bytes that are not in `WS` (R112). -/
def plugTokens (g : List Byte) : List (List Byte) :=
  (g.splitOnP fun b => Config.ws.contains b).filter fun t => !t.isEmpty

/-- A token is exactly two lowercase letters (R112). -/
def plugPair (t : List Byte) : Option (Letter × Letter) :=
  match t with
  | [a, b] => (letterCode a).bind fun x => (letterCode b).map fun y => (x, y)
  | _ => none

/-- The plugboard string check and its pairs in string order (R112). -/
def plugPairs (g : List Byte) : Option (List (Letter × Letter)) := (plugTokens g).mapM plugPair

/-- A rotor field of the `ENCFG` record: wiring, notch, start position (R80). -/
structure RotorField where
  wiring : Table
  notch : Letter
  start : Letter
deriving DecidableEq, Repr

/-- The `ENCFG` record after its checks (R80): `rotor0` is the document's `rotor1`, slot 0. -/
structure EnigmaRecord where
  ref : Table
  rotor0 : RotorField
  rotor1 : RotorField
  rotor2 : RotorField
  pairs : List (Letter × Letter)
deriving DecidableEq, Repr

/-- The notch and start check (R111): one unsigned byte, at most 25. -/
def positionByte (din : List Byte) (i : Nat) : Option Letter :=
  din[i]?.bind fun b => letterOfNat b.toNat

/-- The field of slot `k`: wiring at `26 + 28k`, notch at `52 + 28k`, start at `53 + 28k` (R80, R114). -/
def rotorField (din : List Byte) (k : Nat) : Option RotorField :=
  (wiringTable (slice (26 + 28 * k) (52 + 28 * k) din)).bind fun w =>
  (positionByte din (52 + 28 * k)).bind fun n =>
  (positionByte din (53 + 28 * k)).map fun p =>
    { wiring := w, notch := n, start := p }

/-- The `ENCFG` payload, checked (R80, R110 to R112, R114): none where any check fails. -/
def enigmaRecord (din : List Byte) : Option EnigmaRecord :=
  if din.length < 110 then none
  else
    (wiringTable (slice 0 26 din)).bind fun ref =>
    (rotorField din 0).bind fun r0 =>
    (rotorField din 1).bind fun r1 =>
    (rotorField din 2).bind fun r2 =>
    (plugPairs (din.drop 110)).map fun ps =>
      { ref := ref, rotor0 := r0, rotor1 := r1, rotor2 := r2, pairs := ps }

/-- The `CFBCFG` record after its checks (R81). -/
structure CfbRecord where
  blockSize : Nat
  key : List Byte
  iv : List Byte
deriving DecidableEq, Repr

/-- The `CFBCFG` payload, checked (R81, R201, R208). No check that `block_size` is a multiple of 4, and no
key can fail. -/
def cfbRecord (din : List Byte) : Option CfbRecord :=
  if din.length < 8 then none
  else
    let bs := memRead din 0 4
    let kl := memRead din 4 4
    if 8 + kl > din.length then none
    else
      let iv := din.drop (8 + kl)
      if bs < Config.bsMin ∨ bs > Config.bsMax ∨ iv.length < bs then none
      else some { blockSize := bs, key := slice 8 (8 + kl) din, iv := iv }

end Sys2Proof.Machine
end

