-- ==== Sys2Proof/Machine/Packer.lean ====
section
/-! DEFINITION. The word packer: bytes to words and back, little-endian, with the optional embedded length
(42_word_packer R150 to R157). -/

namespace Sys2Proof.Machine

/-- Four bytes as a word, the first in bits [7:0] (R55, R151). -/
def wordOfBytes (b0 b1 b2 b3 : Byte) : Word := b3 ++ b2 ++ b1 ++ b0

/-- The data words of `bytes_to_words`: four bytes a word, the final partial word zero-padded (R151). -/
def dataWords : List Byte → List Word
  | [] => []
  | [b0] => [wordOfBytes b0 0#8 0#8 0#8]
  | [b0, b1] => [wordOfBytes b0 b1 0#8 0#8]
  | [b0, b1, b2] => [wordOfBytes b0 b1 b2 0#8]
  | b0 :: b1 :: b2 :: b3 :: rest => wordOfBytes b0 b1 b2 b3 :: dataWords rest

/-- `bytes_to_words(b, il)` (R151). -/
def bytesToWords (b : List Byte) (il : Bool) : List Word :=
  if il then dataWords b ++ [BitVec.ofNat 32 b.length] else dataWords b

/-- The bytes of a word, bits [7:0] first (R55, R152). -/
def bytesOfWord (w : Word) : List Byte :=
  [w.extractLsb' 0 8, w.extractLsb' 8 8, w.extractLsb' 16 8, w.extractLsb' 24 8]

/-- `words_to_bytes(w, false)` (R152). -/
def dataBytes (w : List Word) : List Byte := w.flatMap bytesOfWord

/-- `words_to_bytes(w, il)`; none: corrupt (R152 to R154). The bounds are mathematical integers. -/
def wordsToBytes (w : List Word) (il : Bool) : Option (List Byte) :=
  if il then
    match w.getLast? with
    | none => none
    | some m =>
      let d : Int := (w.length : Int) - 1
      if 4 * d - 3 ≤ (m.toNat : Int) ∧ (m.toNat : Int) ≤ 4 * d then
        some ((dataBytes w.dropLast).take m.toNat)
      else none
  else some (dataBytes w)

/-- `PACK[.L]` (R156). -/
def execPack (il : Bool) (len : BitVec 20) (s : State) : Host.Outcome State Fault Refusal :=
  runCommand len.toNat none s fun s din => .ok ({ s with v := bytesToWords din il }, [])

/-- `UNPACK[.L]` (R157). -/
def execUnpack (il : Bool) (s : State) : Host.Outcome State Fault Refusal :=
  runCommand 0 none s fun s _ =>
    match wordsToBytes s.v il with
    | some r => .ok (s, r)
    | none => .error .corrupt

end Sys2Proof.Machine
end

