-- ==== Sys2Proof/Machine/Xxtea.lean ====
section
/-! DEFINITION. The XXTEA ARX core: key derivation, mixing function, the two sweeps, and the commands that
run them (43_xxtea_core R170 to R184). -/

namespace Sys2Proof.Machine

/-- `derive_key(s)` (R171): packed little-endian, truncated or zero-padded to four words. -/
def deriveKey (b : List Byte) : Key := Vector.ofFn fun j => (bytesToWords b false).getD j.val 0#32

/-- `rounds(N) = 6 + floor(52 / N)` (R172). -/
def rounds (n : Nat) : Nat := 6 + 52 / n

/-- `e = (sum >> 2) & 3` (R174), as its two bits. -/
def sumE (sum : Word) : BitVec 2 := sum.extractLsb' 2 2

/-- The key index `(p & 3) XOR e` (R173). -/
def keyIndex (p : Nat) (e : BitVec 2) : Fin 4 := (BitVec.ofNat 2 p ^^^ e).toFin

/-- `MX(sum, y, z, p, e, k)` (R173). -/
def mx (sum y z : Word) (p : Nat) (e : BitVec 2) (k : Key) : Word :=
  (((z >>> 5) ^^^ (y <<< 2)) + ((y >>> 3) ^^^ (z <<< 4))) ^^^ ((sum ^^^ y) + (k[keyIndex p e] ^^^ z))

/-- `v[p]`. Every use is at an index of the array. -/
def wordAt (v : List Word) (p : Nat) : Word := v.getD p 0#32

/-- One forward update (R174): `v[p] <- v[p] +32 MX(sum, y, z, p, e, k)`, `z <- v[p]`. The pair is the array and
`z`. -/
def encUpdate (k : Key) (sum : Word) (p : Nat) (y : Word) (vz : List Word × Word) : List Word × Word :=
  let w := wordAt vz.1 p + mx sum y vz.2 p (sumE sum) k
  (vz.1.set p w, w)

/-- One forward round (R174): `p` from 0 to `n − 1` with `y = v[p + 1]`, then `v[n]` with `y = v[0]`. -/
def encRound (k : Key) (n : Nat) (sum : Word) (vz : List Word × Word) : List Word × Word :=
  let vz := (List.range n).foldl (fun vz p => encUpdate k sum p (wordAt vz.1 (p + 1)) vz) vz
  encUpdate k sum n (wordAt vz.1 0) vz

/-- The forward rounds (R174): `sum` grows by `DELTA` at the start of each. -/
def encRounds (k : Key) (n : Nat) : (r : Nat) → (sum : Word) → List Word × Word → List Word × Word
  | 0, _, vz => vz
  | r + 1, sum, vz => encRounds k n r (sum + Config.delta) (encRound k n (sum + Config.delta) vz)

/-- `xxtea_encrypt(v, k)` (R174); `z` starts at `v[n]`, `sum` at `SUM0`. -/
def xxteaEncrypt (v : List Word) (k : Key) : List Word :=
  let n := v.length - 1
  (encRounds k n (rounds v.length) Config.sum0 (v, wordAt v n)).1

/-- One inverse update (R175): `v[p] <- v[p] −32 MX(sum, y, z, p, e, k)`, `y <- v[p]`. The pair is the array and
`y`. -/
def decUpdate (k : Key) (sum : Word) (p : Nat) (z : Word) (vy : List Word × Word) : List Word × Word :=
  let w := wordAt vy.1 p - mx sum vy.2 z p (sumE sum) k
  (vy.1.set p w, w)

/-- One inverse round (R175): `p` from `n` down to 1 with `z = v[p − 1]`, then `v[0]` with `z = v[n]`. -/
def decRound (k : Key) (n : Nat) (sum : Word) (vy : List Word × Word) : List Word × Word :=
  let vy := (List.range n).foldr (fun i vy => decUpdate k sum (i + 1) (wordAt vy.1 i) vy) vy
  decUpdate k sum 0 (wordAt vy.1 n) vy

/-- The inverse rounds (R175): `sum` shrinks by `DELTA` at the end of each. -/
def decRounds (k : Key) (n : Nat) : (r : Nat) → (sum : Word) → List Word × Word → List Word × Word
  | 0, _, vy => vy
  | r + 1, sum, vy => decRounds k n r (sum - Config.delta) (decRound k n sum vy)

/-- `xxtea_decrypt(v, k)` (R175); `sum` starts at `SUM0 + rounds · DELTA mod 2^32`, `y` at `v[0]`. -/
def xxteaDecrypt (v : List Word) (k : Key) : List Word :=
  let n := v.length - 1
  let sum := Config.sum0 + BitVec.ofNat 32 (rounds v.length) * Config.delta
  (decRounds k n (rounds v.length) sum (v, wordAt v 0)).1

/-- `XKEY` (R180): every key string is accepted. -/
def execXkey (len : BitVec 20) (s : State) : Host.Outcome State Fault Refusal :=
  runCommand len.toNat none s fun s din =>
    .ok ({ s with xk := deriveKey din, status := { s.status with xv := true } }, [])

/-- A transform of the word array in place (R181, R182): never on an empty array (R178). -/
def transformArray (s : State) (f : List Word → Key → List Word) : Host.Outcome State Fault Refusal :=
  runCommand 0 (some .xxtea) s fun s _ =>
    if s.v = [] then .error .empty else .ok ({ s with v := f s.v s.xk }, [])

/-- `XENC` (R181). -/
def execXenc (s : State) : Host.Outcome State Fault Refusal := transformArray s xxteaEncrypt

/-- `XDEC` (R182). -/
def execXdec (s : State) : Host.Outcome State Fault Refusal := transformArray s xxteaDecrypt

/-- `XXENC[.L]` (R183): pack with `il`, transform, unpack without stripping, all in a private array. -/
def execXxenc (il : Bool) (len : BitVec 20) (s : State) : Host.Outcome State Fault Refusal :=
  runCommand len.toNat (some .xxtea) s fun s din =>
    let w := bytesToWords din il
    if w = [] then .error .empty else .ok (s, dataBytes (xxteaEncrypt w s.xk))

/-- `XXDEC[.L]` (R184): pack the ciphertext, inverse transform, unpack with `il`. -/
def execXxdec (il : Bool) (len : BitVec 20) (s : State) : Host.Outcome State Fault Refusal :=
  runCommand len.toNat (some .xxtea) s fun s din =>
    let w := bytesToWords din false
    if w = [] then .error .empty
    else
      match wordsToBytes (xxteaDecrypt w s.xk) il with
      | some r => .ok (s, r)
      | none => .error .corrupt

end Sys2Proof.Machine
end

