-- ==== Sys2Proof/Machine/Cfb.lean ====
section
/-! DEFINITION. The CFB chaining controller (44_cfb_controller R200 to R210). -/

namespace Sys2Proof.Machine

/-- The two directions of `cfb(dir, data)` (R203). -/
inductive CfbDir
  | enc
  | dec
deriving DecidableEq, Repr

/-- `mask(prev)` (R202): the forward transform in both directions. -/
def cfbMask (k : Key) (prev : List Byte) : List Byte :=
  dataBytes (xxteaEncrypt (bytesToWords prev false) k)

/-- Bytewise XOR, truncated to the chunk (R203, R204). -/
def xorBytes (chunk inter : List Byte) : List Byte := List.zipWith (· ^^^ ·) chunk inter

/-- The chunk loop of `cfb(dir, data)` (R203) on the data not yet processed. `fuel` bounds the number of
chunks; the length of the data is enough for every `BS ≥ 1` (log 15). -/
def cfbLoop (dir : CfbDir) (k : Key) (bs : Nat) : (fuel : Nat) → (prev data : List Byte) → Except Err (List Byte)
  | 0, _, _ => .ok []
  | _ + 1, _, [] => .ok []
  | fuel + 1, prev, b :: rest =>
    let chunk := (b :: rest).take bs
    let inter := cfbMask k prev
    if inter.length ≠ bs then .error .invariant
    else
      let o := xorBytes chunk inter
      let prev' := match dir with
        | .enc => o
        | .dec => chunk
      match cfbLoop dir k bs fuel prev' ((b :: rest).drop bs) with
      | .ok out => .ok (o ++ out)
      | .error e => .error e

/-- `cfb(dir, data)` (R203): `prev` starts at `IVB[0 .. BS)` in every call. -/
def State.cfb (s : State) (dir : CfbDir) (data : List Byte) : Except Err (List Byte) :=
  cfbLoop dir s.ck s.bs data.length s.ivb data

/-- The configuration a checked `CFBCFG` record writes, with `CV` set (R208). -/
def State.configureCfb (s : State) (r : CfbRecord) : State :=
  { s with
    ck := deriveKey r.key
    bs := r.blockSize
    ivb := r.iv.take r.blockSize
    status := { s.status with cv := true } }

/-- `CFBCFG` (R208): construct the XxteaCfb instance, or `E_CONFIG` with nothing written. -/
def execCfbcfg (len : BitVec 20) (s : State) : Host.Outcome State Fault Refusal :=
  runCommand len.toNat none s fun s din =>
    match cfbRecord din with
    | some r => .ok (s.configureCfb r, [])
    | none => .error .config

/-- A CFB call of the facade (R209, R210): no state is written but by a fatal `E_INVARIANT` (R205). -/
def cfbCall (dir : CfbDir) (len : BitVec 20) (s : State) : Host.Outcome State Fault Refusal :=
  runCommand len.toNat (some .cfb) s fun s din =>
    match s.cfb dir din with
    | .ok out => .ok (s, out)
    | .error e => .error e

/-- `CFBENC` (R209). -/
def execCfbenc (len : BitVec 20) (s : State) : Host.Outcome State Fault Refusal := cfbCall .enc len s

/-- `CFBDEC` (R210). -/
def execCfbdec (len : BitVec 20) (s : State) : Host.Outcome State Fault Refusal := cfbCall .dec len s

end Sys2Proof.Machine
end

