-- ==== Sys2Proof/Machine/Control.lean ====
section
/-! DEFINITION. The control command `NOP` (40_permutation_bank R113). -/

namespace Sys2Proof.Machine

/-- `NOP` (R113): `retire([])`. -/
def execNop (s : State) : Host.Outcome State Fault Refusal :=
  runCommand 0 none s fun s _ => .ok (s, [])

end Sys2Proof.Machine
end

