-- ==== Sys2Proof/Machine/Bank.lean ====
section
/-! DEFINITION. The Enigma rotor permutation bank: the primitive functions (40_permutation_bank R101 to R109)
and the commands that reach them (R114 to R121). -/

namespace Sys2Proof.Machine

/-- `x + p`, reduced mod 26: an index into a table (R101). -/
def addLetter (x p : Letter) : Letter := ⟨(x.val + p.val) % 26, Nat.mod_lt _ (by decide)⟩

/-- `(i + 26 − p mod 26) mod 26` (R102). -/
def subLetter (i p : Letter) : Letter := ⟨(i.val + 26 - p.val % 26) % 26, Nat.mod_lt _ (by decide)⟩

/-- The index at which `x` stands in a table (R102 "the unique index `i`"); where it stands nowhere, which no
run reaches, a free value (log 7). -/
def indexIn (t : Table) (x : Letter) : Letter :=
  match (List.finRange 26).find? fun i => t[i] == x with
  | some i => i
  | none => Config.absentIndex t x

/-- `rot_fwd(s, x)` (R101): the position is added going in and not subtracted coming out. -/
def State.rotFwd (s : State) (k : Slot) (x : Letter) : Letter := s.rw[k][addLetter x s.pos[k]]

/-- `rot_inv(s, x)` (R102). -/
def State.rotInv (s : State) (k : Slot) (x : Letter) : Letter := subLetter (indexIn s.rw[k] x) s.pos[k]

/-- `reflect(x)` (R104). -/
def State.reflect (s : State) (x : Letter) : Letter := s.ref[x]

/-- `plug(x)` (R105). -/
def State.plugOf (s : State) (x : Letter) : Letter := s.plg[x]

/-- `fchain(x)` (R108): slot 2, then slot 1, then slot 0. -/
def State.fchain (s : State) (x : Letter) : Letter := s.rotFwd 0 (s.rotFwd 1 (s.rotFwd 2 x))

/-- `ichain(x)` (R109): slot 0, then slot 1, then slot 2. -/
def State.ichain (s : State) (x : Letter) : Letter := s.rotInv 2 (s.rotInv 1 (s.rotInv 0 x))

/-- The identity permutation (R106). -/
def identityTable : Table := ⟨(List.finRange 26).toArray, by simp⟩

/-- `apply_pair(T, a, b)` under each reading of `PLUG_OVERLAP` (R107). -/
def applyPair (mode : PlugOverlap) (t : Table) (p : Letter × Letter) : Table :=
  match mode with
  | .indexExchange => (t.set p.1 t[p.2]).set p.2 t[p.1]
  | .assign => (t.set p.1 p.2).set p.2 p.1
  | .valueExchange => t.map fun x => if x = p.1 then p.2 else if x = p.2 then p.1 else x

/-- Building the plugboard from its pairs, in string order (R106). -/
def buildPlug (mode : PlugOverlap) (pairs : List (Letter × Letter)) : Table :=
  pairs.foldl (applyPair mode) identityTable

/-- The configuration a checked `ENCFG` record writes, with `POS` loaded from `START` and `EV` set (R114). -/
def State.configureEnigma (s : State) (r : EnigmaRecord) : State :=
  { s with
    ref := r.ref
    rw := #v[r.rotor0.wiring, r.rotor1.wiring, r.rotor2.wiring]
    notch := #v[r.rotor0.notch, r.rotor1.notch, r.rotor2.notch]
    start := #v[r.rotor0.start, r.rotor1.start, r.rotor2.start]
    pos := #v[r.rotor0.start, r.rotor1.start, r.rotor2.start]
    plg := buildPlug s.plugOverlap r.pairs
    status := { s.status with ev := true } }

/-- `ENCFG` (R114): construct the Enigma instance, or `E_CONFIG` with nothing written. -/
def execEncfg (len : BitVec 20) (s : State) : Host.Outcome State Fault Refusal :=
  runCommand len.toNat none s fun s din =>
    match enigmaRecord din with
    | some r => .ok (s.configureEnigma r, [])
    | none => .error .config

/-- A primitive lookup (R115, R116, R118 to R122): one letter byte in, the letter byte of `f` out, no write. -/
def letterCommand (s : State) (f : State → Letter → Letter) : Host.Outcome State Fault Refusal :=
  runCommand 1 (some .enigma) s fun s din =>
    match letterOperand din with
    | .ok x => .ok (s, [letterByte (f s x)])
    | .error e => .error e

/-- `RFWD s` (R115). -/
def execRfwd (k : Slot) (s : State) : Host.Outcome State Fault Refusal :=
  letterCommand s fun s x => s.rotFwd k x

/-- `RINV s` (R116). -/
def execRinv (k : Slot) (s : State) : Host.Outcome State Fault Refusal :=
  letterCommand s fun s x => s.rotInv k x

/-- `RALN s` (R117). -/
def execRaln (k : Slot) (s : State) : Host.Outcome State Fault Refusal :=
  runCommand 0 (some .enigma) s fun s _ => .ok (s, [if s.aligned k then 0x01#8 else 0x00#8])

/-- `REFL` (R118). -/
def execRefl (s : State) : Host.Outcome State Fault Refusal :=
  letterCommand s fun s x => s.reflect x

/-- `PLUG` (R119). -/
def execPlug (s : State) : Host.Outcome State Fault Refusal :=
  letterCommand s fun s x => s.plugOf x

/-- `FCHAIN` (R120). -/
def execFchain (s : State) : Host.Outcome State Fault Refusal :=
  letterCommand s fun s x => s.fchain x

/-- `ICHAIN` (R121). -/
def execIchain (s : State) : Host.Outcome State Fault Refusal :=
  letterCommand s fun s x => s.ichain x

end Sys2Proof.Machine
end

