-- ==== Sys2Proof/Machine/Rotor.lean ====
section
/-! DEFINITION. The rotor step and double-step state machine, the per-letter path and the Enigma stream
(41_rotor_fsm_enigma R130 to R140). -/

namespace Sys2Proof.Machine

/-- `(p + 1) mod 26` (R131). -/
def nextPos (p : Letter) : Letter := addLetter p 1

/-- `step()` (R131): the three alignments are read before any write; slots 0 and 1 advance when they or
their right neighbour are aligned, slot 2 always. -/
def State.stepRotors (s : State) : State :=
  let a0 := s.aligned 0
  let a1 := s.aligned 1
  let a2 := s.aligned 2
  { s with
    pos := #v[if a0 || a1 then nextPos s.pos[0] else s.pos[0],
              if a1 || a2 then nextPos s.pos[1] else s.pos[1],
              nextPos s.pos[2]] }

/-- The substitution of one letter at the present positions (R134 after its `step()`): plugboard, forward
chain, reflector, inverse chain, plugboard again. -/
def State.substitute (s : State) (x : Letter) : Letter :=
  s.plugOf (s.ichain (s.reflect (s.fchain (s.plugOf x))))

/-- The letter filter of the stream (R135): letters are folded to lowercase, every other byte is dropped. -/
def streamLetter (b : Byte) : Option Letter := if isLetter b then letterCode (lc b) else none

/-- `enigma_stream(d)` (R135): positions move before each retained letter is substituted (R134); a dropped
byte moves nothing and gives nothing. -/
def enigmaStream : State → List Byte → State × List Byte
  | s, [] => (s, [])
  | s, b :: rest =>
    match streamLetter b with
    | none => enigmaStream s rest
    | some x =>
      let s1 := s.stepRotors
      let r := enigmaStream s1 rest
      (r.1, letterByte (s1.substitute x) :: r.2)

/-- `POS[s] <- START[s]` for the three slots (R137, R40). -/
def State.loadStart (s : State) : State := { s with pos := s.start }

/-- `ERST` (R137). -/
def execErst (s : State) : Host.Outcome State Fault Refusal :=
  runCommand 0 (some .enigma) s fun s _ => .ok (s.loadStart, [])

/-- `ESTEP` (R138). -/
def execEstep (s : State) : Host.Outcome State Fault Refusal :=
  runCommand 0 (some .enigma) s fun s _ => .ok (s.stepRotors, [])

/-- `ESTRM` (R136): the stream from the present positions. -/
def execEstrm (len : BitVec 20) (s : State) : Host.Outcome State Fault Refusal :=
  runCommand len.toNat (some .enigma) s fun s din => .ok (enigmaStream s din)

/-- An Enigma call of the facade: the per-call clone, then the stream (R40, R139, R140). -/
def State.enigmaCall (s : State) (d : List Byte) : State × List Byte := enigmaStream s.loadStart d

/-- `ENIGE` (R139). -/
def execEnige (len : BitVec 20) (s : State) : Host.Outcome State Fault Refusal :=
  runCommand len.toNat (some .enigma) s fun s din => .ok (s.enigmaCall din)

/-- `ENIGD` (R140): the same function of state and payload as `ENIGE`. -/
def execEnigd (len : BitVec 20) (s : State) : Host.Outcome State Fault Refusal :=
  runCommand len.toNat (some .enigma) s fun s din => .ok (s.enigmaCall din)

end Sys2Proof.Machine
end

