-- ==== Sys2Proof/Machine/Dispatch.lean ====
section
/-! DEFINITION. One arm per command of the opcode map (30_encoding R74), each the direct call of its meaning. -/

namespace Sys2Proof.Machine

def exec (i : Instr) (s : State) : Host.Outcome State Fault Refusal :=
  match i with
  | .nop => Sys2Proof.Machine.execNop s
  | .encfg len => Sys2Proof.Machine.execEncfg len s
  | .rfwd k => Sys2Proof.Machine.execRfwd k s
  | .rinv k => Sys2Proof.Machine.execRinv k s
  | .raln k => Sys2Proof.Machine.execRaln k s
  | .refl => Sys2Proof.Machine.execRefl s
  | .plug => Sys2Proof.Machine.execPlug s
  | .fchain => Sys2Proof.Machine.execFchain s
  | .ichain => Sys2Proof.Machine.execIchain s
  | .erst => Sys2Proof.Machine.execErst s
  | .estep => Sys2Proof.Machine.execEstep s
  | .estrm len => Sys2Proof.Machine.execEstrm len s
  | .enige len => Sys2Proof.Machine.execEnige len s
  | .enigd len => Sys2Proof.Machine.execEnigd len s
  | .pack il len => Sys2Proof.Machine.execPack il len s
  | .unpack il => Sys2Proof.Machine.execUnpack il s
  | .xkey len => Sys2Proof.Machine.execXkey len s
  | .xenc => Sys2Proof.Machine.execXenc s
  | .xdec => Sys2Proof.Machine.execXdec s
  | .xxenc il len => Sys2Proof.Machine.execXxenc il len s
  | .xxdec il len => Sys2Proof.Machine.execXxdec il len s
  | .cfbcfg len => Sys2Proof.Machine.execCfbcfg len s
  | .cfbenc len => Sys2Proof.Machine.execCfbenc len s
  | .cfbdec len => Sys2Proof.Machine.execCfbdec len s

end Sys2Proof.Machine
end

