-- ==== Sys2Proof/Machine/Present.lean ====
section
/-! DEFINITION. Meeting a host action: a command presented (60_exceptions R232), reset (70_reset R240, R242), and
the placing of an instruction as the next command. -/

namespace Sys2Proof.Machine

/-- A command presented to the block (R232): not accepted while `FATAL` = 1, then nothing happens (R223); else
it is decoded, and executed or ended with `E_ILLEGAL`. -/
def presentCommand (c : Command) (s : State) : Host.Outcome State Fault Refusal :=
  if s.status.fatal then .next s
  else
    match decode c.word with
    | .ok i => exec i (s.accept c.payload)
    | .error _ => execIllegal (lenField c.word) (s.accept c.payload)

/-- What one host action does to the block. `rst` asserted during a command abandons it: it does not retire, is
not counted and returns nothing (R242). -/
def meetAction (a : HostAction) (s : State) : Host.Outcome State Fault Refusal :=
  match a with
  | .command c => presentCommand c s
  | .commandThenReset _ => .next s.takeReset
  | .reset => .next s.takeReset

/-- `s` with a command as the host's next action (log 3). -/
def State.present (s : State) (c : Command) : State := s.withHost (.command c :: s.host)

end Sys2Proof.Machine
end

