-- ==== Sys2Proof/Machine/Step.lean ====
section
/-! DEFINITION. One step of the machine, and how an instruction is placed where the next step takes it. -/

namespace Sys2Proof.Machine

/-- One step: the block meets the next action of the host (00_scope R7, R8). With none it is idle and keeps its
state (60_exceptions R238; log 12). -/
def step (s : State) : Host.Outcome State Fault Refusal :=
  match s.host with
  | [] => .next s
  | a :: rest => meetAction a (s.withHost rest)

/-- `s` with the instruction whose bits are `w` presented as the host's next action: its word, and as many
payload bytes as its `LEN` says (log 3, log 16). -/
def State.withFetchWord (s : State) (nbits w : Nat) : State :=
  s.present (transactionOfBits nbits w)

end Sys2Proof.Machine
end

