-- ==== Sys2Proof/Machine/Assembler.lean ====
section
/-! DEFINITION. The textual form of commands: payload items, lines and pseudo-commands (30_encoding R82, R83).
Items are modelled after the lexer: a quoted string as its characters, a number as its value (log 14). -/

namespace Sys2Proof.Machine

/-- One character of a quoted string: itself, or `\xHH` (R82). -/
inductive QuotedChar
  | ascii (c : Char)
  | hexByte (b : Byte)
deriving DecidableEq, Repr

/-- A payload item (R82): a quoted string, a hex byte string, or a number with `:1` or `:4`. -/
inductive Item
  | quoted (cs : List QuotedChar)
  | hexString (bs : List Byte)
  | num1 (n : Nat)
  | num4 (n : Nat)
deriving DecidableEq, Repr

/-- The byte of a quoted character (R82: its ASCII byte, or the byte of `\xHH`). DESIGN CHOICE, unsafe (log 14): R82 gives
no byte to a character that is not ASCII; here it is the low 8 bits of the code point. -/
def QuotedChar.byte : QuotedChar → Byte
  | .ascii c => BitVec.ofNat 8 c.toNat
  | .hexByte b => b

/-- The bytes of an item (R82): numbers are little-endian fields of 1 or 4 bytes. DESIGN CHOICE, unsafe (log 14): of a
number too large for its field, the low bits. -/
def Item.bytes : Item → List Byte
  | .quoted cs => cs.map QuotedChar.byte
  | .hexString bs => bs
  | .num1 n => bytesLE 1 n
  | .num4 n => bytesLE 4 n

/-- The payload of a line: its items concatenated (R82). -/
def payloadOf (items : List Item) : List Byte := items.flatMap Item.bytes

/-- A line (R82) as a transaction: `LEN` is the total payload length and is never written, so the instruction is
given as a function of it. DESIGN CHOICE, unsafe (log 14): a line whose payload is not as long as the fixed `LEN` of its
row has no encoding here, which R82 does not say. A payload longer than `MAX_LEN` has none by 00_scope R10. -/
def assemble (instr : BitVec 20 → Instr) (items : List Item) : Option Command :=
  let p := payloadOf items
  let i := instr (BitVec.ofNat 20 p.length)
  if i.wf p then some { word := encode i, payload := p } else none

/-- `ECHAR "x"` (R83). -/
def pseudoEchar (x : QuotedChar) : Option Command := assemble .estrm [.quoted [x]]

/-- `ENIG payload` (R83). -/
def pseudoEnig (items : List Item) : Option Command := assemble .enige items

/-- `LDV w0, w1, ..., wk` (R83). -/
def pseudoLdv (ws : List Word) : Option Command := assemble (.pack false) (ws.map fun w => .num4 w.toNat)

/-- `RDV` (R83). -/
def pseudoRdv : Option Command := assemble (fun _ => .unpack false) []

/-- The items of one rotor: wiring, notch, start (R83). -/
def rotorItems (r : List QuotedChar × Nat × Nat) : List Item := [.quoted r.1, .num1 r.2.1, .num1 r.2.2]

/-- `ENCFG refl, (w1, n1, p1), (w2, n2, p2), (w3, n3, p3), plugs` (R83). -/
def pseudoEncfg (refl : List QuotedChar) (r1 r2 r3 : List QuotedChar × Nat × Nat) (plugs : List QuotedChar) :
    Option Command :=
  assemble .encfg (.quoted refl :: (rotorItems r1 ++ rotorItems r2 ++ rotorItems r3 ++ [.quoted plugs]))

/-- `CFBCFG bs, key, iv` (R83). -/
def pseudoCfbcfg (bs : Nat) (key iv : List Item) : Option Command :=
  assemble .cfbcfg (.num4 bs :: .num4 (payloadOf key).length :: (key ++ iv))

end Sys2Proof.Machine
end

