-- ==== Sys2Proof/Safety.lean ====
section
/-! DEFINITION. The terms statements are made in: the invariant of the machine, being ready for a command, and
runs. -/

namespace Sys2Proof

/-- The instance an instruction needs: `EV`, `XV` or `CV` must be 1 (60_exceptions R228). -/
def Instr.needs : Instr → Option Machine.CipherUnit
  | .nop | .encfg _ | .pack _ _ | .unpack _ | .xkey _ | .cfbcfg _ => none
  | .xenc | .xdec | .xxenc _ _ | .xxdec _ _ => some .xxtea
  | .cfbenc _ | .cfbdec _ => some .cfb
  | .rfwd _ | .rinv _ | .raln _ | .refl | .plug | .fchain | .ichain => some .enigma
  | .erst | .estep | .estrm _ | .enige _ | .enigd _ => some .enigma

end Sys2Proof

namespace Sys2Proof.Machine

/-- What holds between commands in every state a run can reach. -/
structure State.Inv (s : State) : Prop where
  /-- R21, R24: while `EV` = 1 the rotor tables and the reflector are permutations. -/
  tables : s.status.ev = true → (∀ k : Slot, s.rw[k].toList.Nodup) ∧ s.ref.toList.Nodup
  /-- R25: so is the plugboard, but for the reading `ASSIGN` of R107. -/
  plugboard : s.status.ev = true → s.plugOverlap ≠ .assign → s.plg.toList.Nodup
  /-- R20, R28: while `CV` = 1, `BS` is 8 to `BS_MAX` and `IVB` has `BS` bytes. -/
  cfb : s.status.cv = true → Config.bsMin ≤ s.bs ∧ s.bs ≤ Config.bsMax ∧ s.ivb.length = s.bs
  /-- R20, R29: `N` is at most `NW_MAX`. -/
  words : s.n ≤ Config.nwMax
  /-- R31, R33: `OUTLEN` is the length of `DOUT`. -/
  outlen : s.outlen.toNat = s.dout.length
  /-- R230: codes 8 to 15 are never produced. -/
  code : s.status.err.toNat ≤ 7
  /-- R223, R230: `FATAL` shows exactly the codes of the two fatal errors. -/
  fatal : s.status.fatal = true ↔ s.status.err = 3#4 ∨ s.status.err = 4#4
  /-- R31, R52: after an error there is no result. -/
  noResult : s.status.err ≠ 0#4 → s.dout = []
  /-- R33: `DIN` does not exist between commands. -/
  noPayload : s.din = []

/-- The block is ready to execute `i`: it accepts commands, and the payload in hand is the one `i` comes with
(R72, R232). -/
def State.ReadyFor (s : State) (i : Instr) : Prop :=
  s.status.fatal = false ∧ s.din.length = i.payloadLen

/-- `k` steps of the machine from `s` end in `t` with no stop. -/
inductive Runs : Nat → State → State → Prop
  | zero (s : State) : Runs 0 s s
  | succ {k : Nat} {s t u : State} : Runs k s t → step t = .next u → Runs (k + 1) s u

/-- A safe state: the block still accepts commands (R223, R250). -/
def State.Operational (s : State) : Prop := s.status.fatal = false

end Sys2Proof.Machine
end

