-- ==== Sys2Proof/Certificates/Slice0/Obligations.lean ====
section
/-! DEFINITION. The statements for the provers, and the terms of the spec they are written in. -/

namespace Sys2Proof.Machine

/-- The state a normal end leaves, written out from R221, given the state with the command's own writes. The payload
is gone with its command (R33; the empty field is its form in this model, log 13). -/
def normalEnd (s : State) (out : List Byte) : State :=
  { s with
    dout := out
    outlen := BitVec.ofNat 32 out.length
    status := { s.status with err := 0#4 }
    cseq := s.cseq + 1#32
    din := [] }

/-- The state a soft error leaves, written out from R222: nothing changes but the result, its length, the code
and the count. -/
def softEnd (s : State) (code : BitVec 4) : State :=
  { s with dout := [], outlen := 0#32, status := { s.status with err := code }, cseq := s.cseq + 1#32, din := [] }

/-- The state a fatal error leaves, written out from R223. That the model shows it as a next state is log 5. -/
def fatalEnd (s : State) (code : BitVec 4) : State :=
  { s with
    dout := [], outlen := 0#32, status := { s.status with err := code, fatal := true }
    cseq := s.cseq + 1#32, din := [] }

/-- The slot field of an instruction that has one (R71). -/
def slotOf : Instr → Option Slot
  | .rfwd k | .rinv k | .raln k => some k
  | _ => none

/-- The `il` flag of an instruction that has one (R71). -/
def ilOf : Instr → Option Bool
  | .pack il _ | .unpack il | .xxenc il _ | .xxdec il _ => some il
  | _ => none

/-- The free `LEN` field of an instruction that has one (R72). -/
def lenOf : Instr → Option (BitVec 20)
  | .encfg n | .estrm n | .enige n | .enigd n | .pack _ n | .xkey n => some n
  | .xxenc _ n | .xxdec _ n | .cfbcfg n | .cfbenc n | .cfbdec n => some n
  | _ => none

/-- Which instructions can raise an error (R230, last column). -/
def raisedBy : Err → Instr → Prop
  | .config, i => (∃ n, i = .encfg n) ∨ (∃ n, i = .cfbcfg n)
  | .corrupt, i => i = .unpack true ∨ (∃ n, i = .xxdec true n)
  | .invariant, i => (∃ n, i = .cfbenc n) ∨ (∃ n, i = .cfbdec n)
  | .contract, i => (∃ k, i = .rfwd k) ∨ (∃ k, i = .rinv k) ∨ i = .refl ∨ i = .plug ∨ i = .fchain ∨ i = .ichain
  | .illegal, _ => False
  | .noInst, i => i.needs ≠ none
  | .empty, i => i = .xenc ∨ i = .xdec ∨ (∃ il n, i = .xxenc il n) ∨ (∃ il n, i = .xxdec il n)

/-- The two states agree on everything the read set of an instruction names (10_state R37), on the valid flags and
on the payload. -/
def sameReads (i : Instr) (s t : State) : Prop :=
  s.status.ev = t.status.ev ∧ s.status.xv = t.status.xv ∧ s.status.cv = t.status.cv ∧ s.din = t.din ∧
  match i with
  | .nop | .encfg _ | .pack _ _ | .xkey _ | .cfbcfg _ | .erst | .estep => True
  | .rfwd k | .rinv k => s.rw[k] = t.rw[k] ∧ s.pos[k] = t.pos[k]
  | .raln k => s.notch[k] = t.notch[k] ∧ s.pos[k] = t.pos[k]
  | .refl => s.ref = t.ref
  | .plug => s.plg = t.plg
  | .fchain | .ichain => s.rw = t.rw ∧ s.pos = t.pos
  | .estrm _ => s.rw = t.rw ∧ s.notch = t.notch ∧ s.ref = t.ref ∧ s.plg = t.plg ∧ s.pos = t.pos
  | .enige _ | .enigd _ => s.rw = t.rw ∧ s.notch = t.notch ∧ s.ref = t.ref ∧ s.plg = t.plg ∧ s.start = t.start
  | .unpack _ => s.v = t.v
  | .xenc | .xdec => s.v = t.v ∧ s.xk = t.xk
  | .xxenc _ _ | .xxdec _ _ => s.xk = t.xk
  | .cfbenc _ | .cfbdec _ => s.ck = t.ck ∧ s.bs = t.bs ∧ s.ivb = t.ivb

/-- The byte of a letter code (R12). -/
def byteOfLetter (x : Letter) : Byte := BitVec.ofNat 8 (0x61 + x.val)

/-- `RW[s][(x + POS[s]) mod 26]` (R101). -/
def forwardOf (s : State) (k : Slot) (x : Letter) : Letter := s.rw[k][Fin.ofNat 26 (x.val + s.pos[k].val)]

/-- `y = (i + 26 − POS[s] mod 26) mod 26` for the unique index `i` with `RW[s][i] = x` (R102). -/
def IsInverseOf (s : State) (k : Slot) (x y : Letter) : Prop :=
  ∃ i : Letter, s.rw[k][i] = x ∧ (∀ j : Letter, s.rw[k][j] = x → j = i) ∧
    y = Fin.ofNat 26 (i.val + 26 - s.pos[k].val % 26)

/-- `aligned(s)` (R103). -/
abbrev alignedAt (s : State) (k : Slot) : Prop := s.pos[k].val % 26 = (s.notch[k].val + 19) % 26

/-- A payload that passes `ENCFG`, by the layout of R80 and the checks of R110 to R112, with what it says: four
wirings that are permutations, three notches and starts, and a pair string whose tokens are the given pairs. -/
def EncfgPayload (r w0 w1 w2 : Table) (n p : Vector Letter 3) (pairs : List (Letter × Letter)) (din : List Byte) :
    Prop :=
  (r.toList.Nodup ∧ w0.toList.Nodup ∧ w1.toList.Nodup ∧ w2.toList.Nodup) ∧
  ∃ g : List Byte,
    plugTokens g = pairs.map (fun q => [byteOfLetter q.1, byteOfLetter q.2]) ∧
    din = r.toList.map byteOfLetter ++
      w0.toList.map byteOfLetter ++ [BitVec.ofNat 8 n[0].val, BitVec.ofNat 8 p[0].val] ++
      w1.toList.map byteOfLetter ++ [BitVec.ofNat 8 n[1].val, BitVec.ofNat 8 p[1].val] ++
      w2.toList.map byteOfLetter ++ [BitVec.ofNat 8 n[2].val, BitVec.ofNat 8 p[2].val] ++ g

/-- A byte of `WS` (R9, R112). -/
def isSeparator (b : Byte) : Prop := b = 0x09#8 ∨ b = 0x0A#8 ∨ b = 0x0B#8 ∨ b = 0x0C#8 ∨ b = 0x0D#8 ∨ b = 0x20#8

/-- `ts` are the maximal runs of bytes of `g` outside `WS`, in order (R112). -/
inductive Tokenises : List Byte → List (List Byte) → Prop
  | none (sep : List Byte) : (∀ b ∈ sep, isSeparator b) → Tokenises sep []
  | cons (sep t rest : List Byte) (ts : List (List Byte)) :
      (∀ b ∈ sep, isSeparator b) → t ≠ [] → (∀ b ∈ t, ¬ isSeparator b) →
      (∀ b, rest.head? = some b → isSeparator b) → Tokenises rest ts → Tokenises (sep ++ t ++ rest) (t :: ts)

/-- `fold(m)`: the bytes 0x41 to 0x5A folded to lowercase and the bytes 0x61 to 0x7A, all others removed (R12, R135,
R141). -/
def foldLetters (m : List Byte) : List Byte :=
  m.filterMap fun b =>
    if 0x41 ≤ b.toNat ∧ b.toNat ≤ 0x5A then some (b + 0x20#8)
    else if 0x61 ≤ b.toNat ∧ b.toNat ≤ 0x7A then some b else none

/-- The positions after one `step()`, written out from R131. -/
def afterStep (s : State) : State :=
  { s with
    pos := #v[if alignedAt s 0 ∨ alignedAt s 1 then Fin.ofNat 26 (s.pos[0].val + 1) else s.pos[0],
              if alignedAt s 1 ∨ alignedAt s 2 then Fin.ofNat 26 (s.pos[1].val + 1) else s.pos[1],
              Fin.ofNat 26 (s.pos[2].val + 1)] }

/-- The positions after `j` steps from `s` (R131). -/
def afterSteps (s : State) (j : Nat) : State := afterStep^[j] s

/-- `y` is what `x` is substituted by at the positions of `s`, written out from R134 after its `step()`: plugboard,
forward chain (slots 2, 1, 0), reflector, inverse chain (slots 0, 1, 2), plugboard again. -/
def IsSubstituteOf (s : State) (x y : Letter) : Prop :=
  ∃ a b c : Letter,
    IsInverseOf s 0 s.ref[forwardOf s 0 (forwardOf s 1 (forwardOf s 2 s.plg[x]))] a ∧
    IsInverseOf s 1 a b ∧ IsInverseOf s 2 b c ∧ y = s.plg[c]

/-- `out` is the Enigma stream of `d` from `s` (R134, R135): one letter for each letter of `fold(d)`, the `j`-th
substituted at the positions reached by `j + 1` steps. -/
def IsStreamOf (s : State) (d out : List Byte) : Prop :=
  out.length = (foldLetters d).length ∧
  ∀ (j : Nat) (x : Letter), (foldLetters d)[j]? = some (byteOfLetter x) →
    ∃ y, IsSubstituteOf (afterSteps s (j + 1)) x y ∧ out[j]? = some (byteOfLetter y)

/-- The three wirings have no repeats, as the wiring check R110 makes them. -/
def wiringsDistinct (s : State) : Prop := ∀ k : Slot, s.rw[k].toList.Nodup

/-- `w` is the bytes packed four a word, little-endian, the last word zero-padded (R151, `il` = 0). -/
def IsPacked (b : List Byte) (w : List Word) : Prop :=
  w.length = (b.length + 3) / 4 ∧
  ∀ i, i < w.length → ∀ j, j < 4 → (w.getD i 0#32).extractLsb' (8 * j) 8 = b.getD (4 * i + j) 0#8

/-- The length word that `il` = 1 appends (R151). -/
def lengthWord (il : Bool) (b : List Byte) : List Word := if il then [BitVec.ofNat 32 b.length] else []

/-- `k` is the first 16 bytes of the key string, zero-padded, packed little-endian (R171). -/
def IsKeyOf (b : List Byte) (k : Key) : Prop :=
  ∀ (i : Fin 4) (j : Nat), j < 4 → (k[i]).extractLsb' (8 * j) 8 = b.getD (4 * i.val + j) 0#8

/-- `out` is the bytes of the words, little-endian, four a word (R55, R152). -/
def IsBytesOf (w : List Word) (out : List Byte) : Prop :=
  out.length = 4 * w.length ∧
  ∀ i, i < w.length → ∀ j, j < 4 → out[4 * i + j]? = some ((w.getD i 0#32).extractLsb' (8 * j) 8)

/-- The length word `m` is in the window over `d` data words, as mathematical integers (R153, R154). -/
def inWindow (d : Nat) (m : Word) : Prop := 4 * (d : Int) - 3 ≤ (m.toNat : Int) ∧ (m.toNat : Int) ≤ 4 * (d : Int)

/-- `MX(sum, y, z, p, e, k)`, written out from R173. -/
def mixOf (sum y z : Word) (p : Nat) (e : BitVec 2) (k : Key) : Word :=
  (((z >>> 5) ^^^ (y <<< 2)) + ((y >>> 3) ^^^ (z <<< 4))) ^^^
    ((sum ^^^ y) + (k.toList.getD ((p &&& 3) ^^^ e.toNat) 0#32 ^^^ z))

/-- The update `U(r, p)` of R176, on the current contents of the array. -/
def updateAt (k : Key) (v : List Word) (rp : Nat × Nat) : List Word :=
  let sum := BitVec.ofNat 32 rp.1 * 0x9E3779B9#32
  v.set rp.2 (v.getD rp.2 0#32 +
    mixOf sum (v.getD ((rp.2 + 1) % v.length) 0#32) (v.getD ((rp.2 + v.length - 1) % v.length) 0#32) rp.2
      (sum.extractLsb' 2 2) k)

/-- The update `U⁻(r, p)` of R176. -/
def undoAt (k : Key) (v : List Word) (rp : Nat × Nat) : List Word :=
  let sum := BitVec.ofNat 32 rp.1 * 0x9E3779B9#32
  v.set rp.2 (v.getD rp.2 0#32 -
    mixOf sum (v.getD ((rp.2 + 1) % v.length) 0#32) (v.getD ((rp.2 + v.length - 1) % v.length) 0#32) rp.2
      (sum.extractLsb' 2 2) k)

/-- The sequence `(1,0), …, (1,n), (2,0), …, (rounds,n)` of R176, with `6 + floor(52 / N)` rounds (R172). -/
def updateOrder (n : Nat) : List (Nat × Nat) :=
  (List.range (6 + 52 / n)).flatMap fun r => (List.range n).map fun p => (r + 1, p)

/-- The forward transform as its sequence of updates (R174, R176). -/
def forwardUpdates (k : Key) (v : List Word) : List Word := (updateOrder v.length).foldl (updateAt k) v

/-- The inverse transform as the reverse sequence of inverse updates (R175, R176). -/
def inverseUpdates (k : Key) (v : List Word) : List Word := (updateOrder v.length).reverse.foldl (undoAt k) v

/-- A payload that passes `CFBCFG`, by the layout of R81 and the checks of R201. -/
def CfbcfgPayload (bs : Nat) (key iv : List Byte) (din : List Byte) : Prop :=
  8 ≤ bs ∧ bs ≤ 1024 ∧ bs ≤ iv.length ∧ din = bytesLE 4 bs ++ bytesLE 4 key.length ++ key ++ iv

/-- The ciphertext block before chunk `c`: the IV for the first chunk, else chunk `c − 1` of the ciphertext
(R203). -/
def prevBlock (s : State) (cipher : List Byte) (c : Nat) : List Byte :=
  if c = 0 then s.ivb else (cipher.drop ((c - 1) * s.bs)).take s.bs

/-- `mask` is the mask of the block `prev`, written out from R202: the bytes of the forward transform, under `CK`, of
the packed block. -/
def IsMaskOf (k : Key) (prev mask : List Byte) : Prop :=
  ∃ w, IsPacked prev w ∧ IsBytesOf (forwardUpdates k w) mask

/-- `out` is `data` with each byte XORed with the byte of the mask of its chunk, the mask made from `cipher` (R202,
R203, R204). -/
def IsChained (s : State) (data cipher out : List Byte) : Prop :=
  out.length = data.length ∧
  ∀ j, j < data.length →
    ∃ mask, IsMaskOf s.ck (prevBlock s cipher (j / s.bs)) mask ∧
      out[j]? = some (data.getD j 0#8 ^^^ mask.getD (j % s.bs) 0#8)

/-- The CFB instance as a successful `CFBCFG` leaves it (R28, R201). -/
def CfbReady (s : State) : Prop :=
  s.status.fatal = false ∧ s.status.cv = true ∧ 8 ≤ s.bs ∧ s.ivb.length = s.bs

/-- An accepted command of the Enigma unit whose payload is the one letter byte of `x`. -/
def letterReady (s : State) (x : Letter) : Prop :=
  s.status.fatal = false ∧ s.status.ev = true ∧ s.din = [byteOfLetter x]

end Sys2Proof.Machine

open Sys2Proof Sys2Proof.Machine

/-! ### Encoding -/

/-- R70 to R76: the words of an instruction are exactly those that decode to it. -/
def Obligations.DecodeAndEncodeAgree : Prop :=
  ∀ (w : Word) (i : Instr), decode w = .ok i ↔ encode i = w

/-- R75: decode finds the row of the opcode map, with the operand fields of the word; no row, no instruction. -/
def Obligations.DecodeFollowsOpcodeMap : Prop :=
  ∀ w : Word,
    (∀ i, decode w = .ok i →
      i.row ∈ opcodeMap ∧ i.row.selects w = true ∧
      (∀ k, slotOf i = some k → k.val = (w.extractLsb' 20 2).toNat) ∧
      (∀ il, ilOf i = some il → il = w.getLsbD 20) ∧
      (∀ n, lenOf i = some n → n = w.extractLsb' 0 20)) ∧
    (∀ r ∈ opcodeMap, r.selects w = true → ∃ i, decode w = .ok i ∧ i.row = r) ∧
    ((∃ e, decode w = .error e) ↔ ∀ r ∈ opcodeMap, r.selects w = false)

/-- R74: no two rows match the same word. -/
def Obligations.OpcodeRowsNeverOverlap : Prop :=
  ∀ w : Word, ∀ r ∈ opcodeMap, ∀ r' ∈ opcodeMap, r.selects w = true → r'.selects w = true → r = r'

/-- R74, R76: words written out from the table and the spec's examples. -/
def Obligations.WrittenWordsDecode : Prop :=
  decode 0x00000000#32 = .ok .nop ∧ decode 0x1000006E#32 = .ok (.encfg 110#20) ∧
  decode 0x11200001#32 = .ok (.rfwd 2) ∧ decode 0x13100000#32 = .ok (.raln 1) ∧
  decode 0x21000000#32 = .ok .estep ∧ decode 0x23000011#32 = .ok (.enige 17#20) ∧
  decode 0x30100005#32 = .ok (.pack true 5#20) ∧ decode 0x31000000#32 = .ok (.unpack false) ∧
  decode 0x4310000D#32 = .ok (.xxenc true 13#20) ∧ decode 0x52000000#32 = .ok (.cfbdec 0#20) ∧
  decode 0x01000000#32 = .error .opcode ∧ decode 0x11300001#32 = .error .slot ∧
  decode 0x30200000#32 = .error .argument ∧ decode 0x41000001#32 = .error .length

/-- R82: what the assembler makes of a line is a whole transaction, its word's `LEN` the payload's length. That items come
after the lexer, and that a line of another length than its row's fixed `LEN` has no encoding, is the model's choice
(log 14). -/
def Obligations.AssembledLinesAreTransactions : Prop :=
  ∀ (mk : BitVec 20 → Instr) (items : List Item) (c : Command),
    assemble mk items = some c →
    c.wf = true ∧ c.payload = payloadOf items ∧ decode c.word = .ok (mk (BitVec.ofNat 20 c.payload.length))

/-! ### The step, acceptance, reset -/

/-- R8, R33: a step whose next host action is an accepted command runs the decoded instruction, with the payload as
`DIN` and the action behind it. -/
def Obligations.StepRunsDecodedInstruction : Prop :=
  ∀ (s : State) (c : Command) (rest : List HostAction) (i : Instr),
    s.host = .command c :: rest → s.status.fatal = false → decode c.word = .ok i →
    step s = exec i { s with host := rest, din := c.payload }

/-- R223, R232 item 1: while `FATAL` = 1 no command is accepted and nothing happens (that the host's action is then
over is the model's choice, log 3 and log 5). With no action the block keeps its state (R238, log 12). -/
def Obligations.FatalOrIdleBlockKeepsState : Prop :=
  (∀ (s : State) (c : Command) (rest : List HostAction),
    s.host = .command c :: rest → s.status.fatal = true → step s = .next { s with host := rest }) ∧
  (∀ (s : State) (i : Instr), s.status.fatal = true → exec i s = .next s) ∧
  (∀ s : State, s.host = [] → step s = .next s)

/-- R76: an illegal word consumes its payload and changes nothing but the status values. -/
def Obligations.IllegalWordEndsSoftly : Prop :=
  ∀ (s : State) (c : Command) (rest : List HostAction),
    s.host = .command c :: rest → s.status.fatal = false → c.wf = true →
    (∀ r ∈ opcodeMap, r.selects c.word = false) →
    step s = .next (softEnd { s with host := rest } 5#4)

/-- A transaction whose payload is not `LEN` bytes stops the model by name (the model's choice, log 4). -/
def Obligations.WrongPayloadLengthStops : Prop :=
  ∀ (s : State) (i : Instr), s.status.fatal = false → s.din.length ≠ i.payloadLen →
    exec i s = .fault .payloadLength

/-- R240, R242: reset, between commands or during one, gives the values the spec states for reset. That the host's
further actions and the reading of `PLUG_OVERLAP` stay, and that no payload is left, is the model's form of the world
outside (log 2, log 3, log 6, log 13). -/
def Obligations.ResetGivesStatedValues : Prop :=
  ∀ (s : State) (c : Command) (rest : List HostAction),
    s.host = .reset :: rest ∨ s.host = .commandThenReset c :: rest →
    ∃ t, step s = .next t ∧ t.status.word = 0#32 ∧ t.outlen = 0#32 ∧ t.cseq = 0#32 ∧ t.dout = [] ∧ t.n = 0 ∧
      t.din = [] ∧ t.host = rest ∧ t.plugOverlap = s.plugOverlap

/-- R39: the values the spec states for the state after reset. -/
def Obligations.ResetStateHasStatedValues : Prop :=
  State.reset.status.word = 0#32 ∧ State.reset.status.err = 0#4 ∧ State.reset.status.ev = false ∧
  State.reset.status.xv = false ∧ State.reset.status.cv = false ∧ State.reset.status.fatal = false ∧
  State.reset.outlen = 0#32 ∧ State.reset.cseq = 0#32 ∧ State.reset.dout = [] ∧ State.reset.n = 0

/-- R241: nothing but reset clears `FATAL` or a valid flag, or sets `CSEQ` back to 0 other than its wrap. -/
def Obligations.ResetIsTheOnlyWayBack : Prop :=
  ∀ s t : State, step s = .next t →
    ((s.status.fatal = true ∧ t.status.fatal = false) ∨ (s.status.ev = true ∧ t.status.ev = false) ∨
      (s.status.xv = true ∧ t.status.xv = false) ∨ (s.status.cv = true ∧ t.status.cv = false) ∨
      (s.cseq ≠ 0#32 ∧ s.cseq ≠ 0xFFFFFFFF#32 ∧ t.cseq = 0#32)) →
    ∃ rest, s.host = .reset :: rest ∨ ∃ c, s.host = .commandThenReset c :: rest

/-- R32: `CSEQ` starts at 0; every accepted command adds 1, however it ends; one not accepted does not. -/
def Obligations.CommandCountAdvances : Prop :=
  State.reset.cseq = 0#32 ∧
  ∀ (s t : State) (c : Command) (rest : List HostAction),
    s.host = .command c :: rest → step s = .next t →
    t.cseq = if s.status.fatal then s.cseq else s.cseq + 1#32

/-! ### Status and errors -/

/-- R30: the layout of `STATUS` as the host reads it. -/
def Obligations.StatusRegisterLayout : Prop :=
  ∀ t : Status,
    t.word.extractLsb' 0 4 = t.err ∧ t.word.getLsbD 4 = t.ev ∧ t.word.getLsbD 5 = t.xv ∧ t.word.getLsbD 6 = t.cv ∧
    t.word.getLsbD 7 = t.fatal ∧ t.word.extractLsb' 8 24 = 0#24

/-- R221: what `retire(out)` writes, on top of the command's own writes. -/
def Obligations.RetireWritesStatus : Prop :=
  ∀ (s : State) (out : List Byte), out.length < 2 ^ 32 →
    s.retire out = normalEnd s out ∧ (s.retire out).outlen.toNat = out.length ∧
    (s.retire out).cseq.toNat = (s.cseq.toNat + 1) % 2 ^ 32

/-- R222, R223: an error discards every write of the command; a fatal one sets `FATAL`. The fatal end as a next state is
the model's reading (log 5). -/
def Obligations.RaiseDiscardsWrites : Prop :=
  ∀ s : State,
    (∀ e, e = Err.config ∨ e = .corrupt ∨ e = .illegal ∨ e = .noInst ∨ e = .empty →
      s.finish (.error e) = softEnd s e.code) ∧
    (∀ e, e = Err.invariant ∨ e = .contract → s.finish (.error e) = fatalEnd s e.code)

/-- R230: the codes, the kinds, and who raises what; codes 8 to 15 are never produced. The fatal end as a next state is
the model's reading (log 5). -/
def Obligations.ErrorCodesAndRaisers : Prop :=
  (Err.config.code = 1#4 ∧ Err.corrupt.code = 2#4 ∧ Err.invariant.code = 3#4 ∧ Err.contract.code = 4#4 ∧
    Err.illegal.code = 5#4 ∧ Err.noInst.code = 6#4 ∧ Err.empty.code = 7#4) ∧
  (∀ (i : Instr) (s t : State), s.status.fatal = false → exec i s = .next t →
    (t.status.err = 0#4 ∧ t.status.fatal = false) ∨
    ∃ e, t.status.err = e.code ∧ raisedBy e i ∧ (t.status.fatal = true ↔ e = .invariant ∨ e = .contract)) ∧
  (∀ (s t : State) (c : Command) (rest : List HostAction), s.host = .command c :: rest → s.status.fatal = false →
    (∃ x, decode c.word = .error x) → step s = .next t → t.status.err = 5#4)

/-- R228: a command whose valid flag is 0 ends with the soft `E_NOINST`, whatever its payload (R232 item 3). -/
def Obligations.MissingInstanceIsRefused : Prop :=
  ∀ (i : Instr) (u : CipherUnit) (s : State),
    i.needs = some u → s.status.valid u = false → s.ReadyFor i → exec i s = .next (softEnd s 6#4)

/-- R222, R223, R234: a command that ends with an error changes the status values and nothing else. The fatal end as a
next state is the model's reading (log 5). -/
def Obligations.ErrorsArePrecise : Prop :=
  ∀ (i : Instr) (s t : State), s.status.fatal = false → exec i s = .next t → t.status.err ≠ 0#4 →
    t = softEnd s t.status.err ∨ t = fatalEnd s t.status.err

/-- R26, R27, R28, R30: a valid flag is set by its own construct command ending without error, and by nothing else. -/
def Obligations.ValidFlagsFollowConstruction : Prop :=
  ∀ (i : Instr) (s t : State), s.status.fatal = false → exec i s = .next t →
    (t.status.ev = true ↔ s.status.ev = true ∨ ((∃ n, i = .encfg n) ∧ t.status.err = 0#4)) ∧
    (t.status.xv = true ↔ s.status.xv = true ∨ (∃ n, i = .xkey n)) ∧
    (t.status.cv = true ↔ s.status.cv = true ∨ ((∃ n, i = .cfbcfg n) ∧ t.status.err = 0#4))

/-! ### Frames, invariants -/

/-- R37: the write sets. Every register is unchanged by every instruction the table does not list for it. -/
def Obligations.OnlyListedCommandsWrite : Prop :=
  ∀ (i : Instr) (s t : State), exec i s = .next t →
    ((∀ n, i ≠ .encfg n) →
      t.rw = s.rw ∧ t.notch = s.notch ∧ t.start = s.start ∧ t.ref = s.ref ∧ t.plg = s.plg) ∧
    ((∀ n, i ≠ .encfg n ∧ i ≠ .estrm n ∧ i ≠ .enige n ∧ i ≠ .enigd n) → i ≠ .erst → i ≠ .estep → t.pos = s.pos) ∧
    ((∀ n, i ≠ .xkey n) → t.xk = s.xk) ∧
    ((∀ n, i ≠ .cfbcfg n) → t.ck = s.ck ∧ t.bs = s.bs ∧ t.ivb = s.ivb) ∧
    ((∀ il n, i ≠ .pack il n) → t.n = s.n ∧ (i ≠ .xenc → i ≠ .xdec → t.v = s.v)) ∧
    t.host = s.host ∧ t.plugOverlap = s.plugOverlap

/-- R37, R40, R60: the read sets. What a command returns is a function of the registers its row reads and of its
payload; `ENIGE` and `ENIGD` do not depend on `POS`. -/
def Obligations.ResultsDependOnReadSetOnly : Prop :=
  ∀ (i : Instr) (s t s' t' : State), s.status.fatal = false → t.status.fatal = false → sameReads i s t →
    exec i s = .next s' → exec i t = .next t' →
    s'.dout = t'.dout ∧ s'.outlen = t'.outlen ∧ s'.status.err = t'.status.err

/-- The model's own invariant, each clause from the rule its field names in `State.Inv` (`FATAL` and the next state after
a fatal error: log 5). Every step keeps it: tables stay permutations, `BS` and `IVB` agree, `N` stays within
its capacity, `OUTLEN` is the length of `DOUT`, the codes stay legal, `FATAL` shows the fatal codes only. -/
def Obligations.StepKeepsInvariant : Prop :=
  ∀ s t : State, s.Inv → step s = .next t → t.Inv

/-- The state after reset meets the invariant. -/
def Obligations.ResetMeetsInvariant : Prop := State.reset.Inv

/-! ### The permutation bank -/

/-- R113: `NOP` leaves every register but the status values. -/
def Obligations.NopOnlyCounts : Prop :=
  ∀ s : State, s.ReadyFor .nop → exec .nop s = .next (normalEnd s [])

/-- R101, R102, R115, R116: one rotor, forward and inverse. -/
def Obligations.RotorLookupResults : Prop :=
  ∀ (s : State) (k : Slot) (x : Letter), letterReady s x →
    exec (.rfwd k) s = .next (normalEnd s [byteOfLetter (forwardOf s k x)]) ∧
    (s.rw[k].toList.Nodup →
      ∃ y, IsInverseOf s k x y ∧ exec (.rinv k) s = .next (normalEnd s [byteOfLetter y]))

/-- R103, R117: the alignment predicate as `RALN` returns it. -/
def Obligations.AlignmentResult : Prop :=
  ∀ (s : State) (k : Slot), s.ReadyFor (.raln k) → s.status.ev = true →
    (alignedAt s k → exec (.raln k) s = .next (normalEnd s [0x01#8])) ∧
    (¬ alignedAt s k → exec (.raln k) s = .next (normalEnd s [0x00#8]))

/-- R104, R105, R118, R119: the reflector and the plugboard are table lookups. -/
def Obligations.ReflectorAndPlugboardResults : Prop :=
  ∀ (s : State) (x : Letter), letterReady s x →
    exec .refl s = .next (normalEnd s [byteOfLetter s.ref[x]]) ∧
    exec .plug s = .next (normalEnd s [byteOfLetter s.plg[x]])

/-- R108, R109, R120, R121: the forward chain is slot 2, 1, 0; the inverse chain slot 0, 1, 2. -/
def Obligations.ChainResults : Prop :=
  ∀ (s : State) (x : Letter), letterReady s x →
    exec .fchain s = .next (normalEnd s [byteOfLetter (forwardOf s 0 (forwardOf s 1 (forwardOf s 2 x)))]) ∧
    ((∀ k : Slot, s.rw[k].toList.Nodup) →
      ∃ a b c, IsInverseOf s 0 x a ∧ IsInverseOf s 1 a b ∧ IsInverseOf s 2 b c ∧
        exec .ichain s = .next (normalEnd s [byteOfLetter c]))

/-- R122, R226: a byte that is no lowercase letter is the fatal `E_CONTRACT` for the six lookups. The fatal end as a next
state is the model's reading (log 5). -/
def Obligations.NonLetterOperandIsFatal : Prop :=
  ∀ (s : State) (b : Byte) (i : Instr),
    (∃ k, i = .rfwd k) ∨ (∃ k, i = .rinv k) ∨ i = .refl ∨ i = .plug ∨ i = .fchain ∨ i = .ichain →
    s.status.fatal = false → s.status.ev = true → s.din = [b] → ¬ (0x61#8 ≤ b ∧ b ≤ 0x7A#8) →
    exec i s = .next (fatalEnd s 4#4)

/-- R123: rotors and chains invert each other whatever the positions, and the tables are permutations. -/
def Obligations.RotorsAndChainsInvert : Prop :=
  ∀ s : State, s.Inv → s.status.ev = true →
    (∀ k x, s.rotInv k (s.rotFwd k x) = x) ∧ (∀ k x, s.rotFwd k (s.rotInv k x) = x) ∧
    (∀ k, Function.Bijective (s.rotFwd k)) ∧
    (∀ x, s.ichain (s.fchain x) = x ∧ s.fchain (s.ichain x) = x) ∧
    Function.Bijective s.reflect ∧ (s.plugOverlap = .indexExchange → Function.Bijective s.plugOf)

/-- R114: `ENCFG` with a payload that passes every check constructs the instance; with any other it is `E_CONFIG`
and nothing is written. -/
def Obligations.EncfgConstructsOrRefuses : Prop :=
  ∀ (s : State) (len : BitVec 20), s.ReadyFor (.encfg len) →
    (∀ r w0 w1 w2 n p pairs, EncfgPayload r w0 w1 w2 n p pairs s.din →
      exec (.encfg len) s = .next (normalEnd
        { s with
          ref := r, rw := #v[w0, w1, w2], notch := n, start := p, pos := p
          plg := buildPlug s.plugOverlap pairs, status := { s.status with ev := true } } [])) ∧
    ((¬ ∃ r w0 w1 w2 n p pairs, EncfgPayload r w0 w1 w2 n p pairs s.din) →
      exec (.encfg len) s = .next (softEnd s 1#4))

/-- R112: the tokens of the plugboard string are its maximal runs of bytes outside `WS`. -/
def Obligations.PlugTokensAreMaximalRuns : Prop := ∀ g : List Byte, Tokenises g (plugTokens g)

/-- R106: disjoint pairs give the same plugboard under every reading of `PLUG_OVERLAP`: it swaps each pair, leaves
every other letter, and is an involution. -/
def Obligations.DisjointPairsAreSwapped : Prop :=
  ∀ (mode : PlugOverlap) (pairs : List (Letter × Letter)),
    (pairs.flatMap fun q => [q.1, q.2]).Nodup →
    (∀ q ∈ pairs, (buildPlug mode pairs)[q.1] = q.2 ∧ (buildPlug mode pairs)[q.2] = q.1) ∧
    (∀ x : Letter, (∀ q ∈ pairs, x ≠ q.1 ∧ x ≠ q.2) → (buildPlug mode pairs)[x] = x) ∧
    (∀ x : Letter, (buildPlug mode pairs)[(buildPlug mode pairs)[x]] = x) ∧
    ∀ mode', buildPlug mode' pairs = buildPlug mode pairs

/-- R106, R107: the plugboard is built pair by pair from the identity, each pair applied by the reading in force; and the
string `ab bc` under the three readings: a→b, b→c, c→a; a→b, b→c, c→b; a→c, b→a, c→b. -/
def Obligations.ReusedLetterReadings : Prop :=
  (∀ (mode : PlugOverlap) (i : Letter), (buildPlug mode [])[i] = i) ∧
  (∀ (pairs : List (Letter × Letter)) (a b i : Letter),
    (buildPlug .indexExchange (pairs ++ [(a, b)]))[i] =
      (if i = a then (buildPlug .indexExchange pairs)[b]
       else if i = b then (buildPlug .indexExchange pairs)[a] else (buildPlug .indexExchange pairs)[i]) ∧
    (buildPlug .assign (pairs ++ [(a, b)]))[i] =
      (if i = b then a else if i = a then b else (buildPlug .assign pairs)[i]) ∧
    (buildPlug .valueExchange (pairs ++ [(a, b)]))[i] =
      (if (buildPlug .valueExchange pairs)[i] = a then b
       else if (buildPlug .valueExchange pairs)[i] = b then a else (buildPlug .valueExchange pairs)[i])) ∧
  plugPairs [0x61#8, 0x62#8, 0x20#8, 0x62#8, 0x63#8] = some [(0, 1), (1, 2)] ∧
  (buildPlug .indexExchange [(0, 1), (1, 2)]).toList.take 3 = [1, 2, 0] ∧
  (buildPlug .assign [(0, 1), (1, 2)]).toList.take 3 = [1, 2, 1] ∧
  (buildPlug .valueExchange [(0, 1), (1, 2)]).toList.take 3 = [2, 0, 1]

/-! ### The rotor state machine and the stream -/

/-- R131, R138: one stepping transition; the alignments are those before the step, and nothing but `POS` is written. -/
def Obligations.StepTransition : Prop :=
  ∀ s : State, s.ReadyFor .estep → s.status.ev = true →
    ∃ p : Vector Letter 3, exec .estep s = .next (normalEnd { s with pos := p } []) ∧
      (alignedAt s 0 ∨ alignedAt s 1 → p[0].val = (s.pos[0].val + 1) % 26) ∧
      (¬ (alignedAt s 0 ∨ alignedAt s 1) → p[0] = s.pos[0]) ∧
      (alignedAt s 1 ∨ alignedAt s 2 → p[1].val = (s.pos[1].val + 1) % 26) ∧
      (¬ (alignedAt s 1 ∨ alignedAt s 2) → p[1] = s.pos[1]) ∧
      p[2].val = (s.pos[2].val + 1) % 26

/-- R137: `ERST` loads the positions from the start registers. -/
def Obligations.ErstLoadsStart : Prop :=
  ∀ s : State, s.ReadyFor .erst → s.status.ev = true → exec .erst s = .next (normalEnd { s with pos := s.start } [])

/-- R134 to R136, R142: `ESTRM` continues the stream from the present positions. It completes in every state; what it
returns is stated where the wirings have no repeats, as in every state a run reaches (R102 gives the inverse chain no
result elsewhere, log 7). -/
def Obligations.EstrmResult : Prop :=
  ∀ (s : State) (len : BitVec 20), s.ReadyFor (.estrm len) → s.status.ev = true →
    ∃ out, out.length = (foldLetters s.din).length ∧ (wiringsDistinct s → IsStreamOf s s.din out) ∧
      exec (.estrm len) s =
        .next (normalEnd { s with pos := (afterSteps s (foldLetters s.din).length).pos } out)

/-- R139, R140: `ENIGE` and `ENIGD` are the same stream, from the start positions. They complete in every state; what
they return is stated where the wirings have no repeats, as in every state a run reaches (log 7). -/
def Obligations.EnigmaCallResults : Prop :=
  ∀ (s : State) (len : BitVec 20), s.status.fatal = false → s.din.length = len.toNat → s.status.ev = true →
    ∃ out, out.length = (foldLetters s.din).length ∧
      (wiringsDistinct s → IsStreamOf { s with pos := s.start } s.din out) ∧
      ∀ i, i = .enige len ∨ i = .enigd len →
        exec i s =
          .next (normalEnd { s with pos := (afterSteps { s with pos := s.start } (foldLetters s.din).length).pos } out)

/-- R136: a message sent in two pieces, `ENIGE` then `ESTRM`, gives the same bytes and positions as one `ENIGE`. -/
def Obligations.SplitMessageContinues : Prop :=
  ∀ (s : State) (d e : List Byte), s.status.fatal = false → s.status.ev = true → d.length + e.length < 2 ^ 20 →
    ∃ t1 t2 t,
      exec (.enige (BitVec.ofNat 20 d.length)) { s with din := d } = .next t1 ∧
      exec (.estrm (BitVec.ofNat 20 e.length)) { t1 with din := e } = .next t2 ∧
      exec (.enige (BitVec.ofNat 20 (d ++ e).length)) { s with din := d ++ e } = .next t ∧
      t.dout = t1.dout ++ t2.dout ∧ t.pos = t2.pos

/-- R143: after `ENIGE` or `ENIGD` on `k` letters, `POS[2] = (START[2] + k) mod 26`. -/
def Obligations.FastRotorCountsLetters : Prop :=
  ∀ (s : State) (len : BitVec 20) (i : Instr), i = .enige len ∨ i = .enigd len →
    s.status.fatal = false → s.din.length = len.toNat → s.status.ev = true →
    ∃ t, exec i s = .next t ∧ t.pos[2].val = (s.start[2].val + (foldLetters s.din).length) % 26

/-- R141: with involutive reflector and plugboard, `ENIGD` of what `ENIGE` returned is the message folded. -/
def Obligations.EnigmaIsSelfInverse : Prop :=
  ∀ (s : State) (m : List Byte), s.status.fatal = false → s.status.ev = true → m.length < 2 ^ 20 →
    (∀ k : Slot, s.rw[k].toList.Nodup) → (∀ x : Letter, s.ref[s.ref[x]] = x) → (∀ x : Letter, s.plg[s.plg[x]] = x) →
    ∃ t1 t2,
      exec (.enige (BitVec.ofNat 20 m.length)) { s with din := m } = .next t1 ∧
      exec (.enigd (BitVec.ofNat 20 t1.dout.length)) { t1 with din := t1.dout } = .next t2 ∧
      t2.status.err = 0#4 ∧ t2.dout = foldLetters m

/-! ### The word packer -/

/-- R151, R156: `PACK` fills the word array. -/
def Obligations.PackResult : Prop :=
  ∀ (s : State) (il : Bool) (len : BitVec 20), s.ReadyFor (.pack il len) →
    ∃ w, IsPacked s.din w ∧
      exec (.pack il len) s = .next (normalEnd { s with v := w ++ lengthWord il s.din } [])

/-- R152, R153, R157: `UNPACK` returns the words as bytes, or with `il` the first `m` bytes of the data words if the
length word `m` is in its window, else `E_CORRUPT`. -/
def Obligations.UnpackResult : Prop :=
  ∀ s : State, s.status.fatal = false → s.din = [] →
    (∃ out, IsBytesOf s.v out ∧ exec (.unpack false) s = .next (normalEnd s out)) ∧
    (s.v = [] → exec (.unpack true) s = .next (softEnd s 2#4)) ∧
    (∀ (w : List Word) (m : Word), s.v = w ++ [m] →
      (inWindow w.length m →
        ∃ out, IsBytesOf w out ∧ exec (.unpack true) s = .next (normalEnd s (out.take m.toNat))) ∧
      (¬ inWindow w.length m → exec (.unpack true) s = .next (softEnd s 2#4)))

/-- R155: the three round trips of the packer. -/
def Obligations.PackerRoundTrips : Prop :=
  (∀ b : List Byte, b.length ≤ 1048575 →
    wordsToBytes (bytesToWords b true) true = some b ∧
    wordsToBytes (bytesToWords b false) false = some (b ++ List.replicate ((4 - b.length % 4) % 4) 0#8)) ∧
  ∀ (w : List Word) (b : List Byte), wordsToBytes w false = some b → bytesToWords b false = w

/-! ### The XXTEA core -/

/-- R171, R180: `XKEY` takes any key string: 16 bytes of it, zero-padded, little-endian. -/
def Obligations.XkeyResult : Prop :=
  ∀ (s : State) (len : BitVec 20), s.ReadyFor (.xkey len) →
    ∃ k, IsKeyOf s.din k ∧
      exec (.xkey len) s = .next (normalEnd { s with xk := k, status := { s.status with xv := true } } [])

/-- R173: the mixing function, for all arguments, and its worked values. -/
def Obligations.MixingFunctionValues : Prop :=
  (∀ (sum y z : Word) (p : Nat) (e : BitVec 2) (k : Key), mx sum y z p e k = mixOf sum y z p e k) ∧
  mx 0x9E3779B9#32 0#32 0#32 0 2#2 #v[0#32, 0#32, 0#32, 0#32] = 0x9E3779B9#32 ∧
  mx 0x9E3779B9#32 2#32 1#32 0 2#2 #v[1#32, 2#32, 3#32, 4#32] = 0x9E3779A5#32

/-- R174, R175, R176: the two transforms are the sequence of updates `U(r, p)` and the reverse sequence of `U⁻(r, p)`,
one word (R177) included. -/
def Obligations.XxteaIsUpdateSequence : Prop :=
  ∀ (v : List Word) (k : Key), v ≠ [] →
    xxteaEncrypt v k = forwardUpdates k v ∧ xxteaDecrypt v k = inverseUpdates k v

/-- R176: for two words or more the transforms are inverse to each other. -/
def Obligations.XxteaTransformsInvert : Prop :=
  ∀ (v : List Word) (k : Key), 2 ≤ v.length →
    xxteaDecrypt (xxteaEncrypt v k) k = v ∧ xxteaEncrypt (xxteaDecrypt v k) k = v

/-- R177: on one word they are not: the worked value with the zero key. -/
def Obligations.SingleWordIsNotInverted : Prop :=
  xxteaEncrypt [0#32] #v[0#32, 0#32, 0#32, 0#32] = [0xACC927B6#32] ∧
  xxteaDecrypt [0xACC927B6#32] #v[0#32, 0#32, 0#32, 0#32] = [0x9825C7F5#32]

/-- R181, R182: `XENC` and `XDEC` transform the word array in place and keep `N`. -/
def Obligations.WordArrayTransforms : Prop :=
  ∀ s : State, s.status.fatal = false → s.status.xv = true → s.din = [] → s.v ≠ [] →
    ∃ e d : List Word, e.length = s.n ∧ d.length = s.n ∧
      e = forwardUpdates s.xk s.v ∧ d = inverseUpdates s.xk s.v ∧
      exec .xenc s = .next (normalEnd { s with v := e } []) ∧ exec .xdec s = .next (normalEnd { s with v := d } [])

/-- R178, R229: an array of no words is refused with `E_EMPTY` before any arithmetic. -/
def Obligations.EmptyArrayIsRefused : Prop :=
  ∀ s : State, s.status.fatal = false → s.status.xv = true → s.din = [] →
    (s.v = [] → exec .xenc s = .next (softEnd s 7#4) ∧ exec .xdec s = .next (softEnd s 7#4)) ∧
    exec (.xxenc false 0#20) s = .next (softEnd s 7#4) ∧
    ∀ il, exec (.xxdec il 0#20) s = .next (softEnd s 7#4)

/-- R183: `XXENC` returns the transformed array as bytes, `4·ceil(LEN/4) + 4·il` of them, and writes nothing. -/
def Obligations.XxencResult : Prop :=
  ∀ (s : State) (il : Bool) (len : BitVec 20), s.ReadyFor (.xxenc il len) → s.status.xv = true →
    (s.din ≠ [] ∨ il = true) →
    ∃ w out, IsPacked s.din w ∧ IsBytesOf (forwardUpdates s.xk (w ++ lengthWord il s.din)) out ∧
      out.length = 4 * ((len.toNat + 3) / 4) + 4 * il.toNat ∧ exec (.xxenc il len) s = .next (normalEnd s out)

/-- R184: `XXDEC` returns the inverse transform as bytes; with `il` only if the embedded length is in its window, else
`E_CORRUPT`. -/
def Obligations.XxdecResult : Prop :=
  ∀ (s : State) (len : BitVec 20), s.status.fatal = false → s.din.length = len.toNat → s.status.xv = true →
    s.din ≠ [] →
    ∃ c, IsPacked s.din c ∧
      (∃ out, IsBytesOf (inverseUpdates s.xk c) out ∧ exec (.xxdec false len) s = .next (normalEnd s out)) ∧
      (∀ (w : List Word) (m : Word), inverseUpdates s.xk c = w ++ [m] →
        (inWindow w.length m →
          ∃ out, IsBytesOf w out ∧ exec (.xxdec true len) s = .next (normalEnd s (out.take m.toNat))) ∧
        (¬ inWindow w.length m → exec (.xxdec true len) s = .next (softEnd s 2#4)))

/-- R185 items 1 and 2: `XXDEC.L` undoes `XXENC.L` on 1 byte or more; `XXDEC` undoes `XXENC` on 5 bytes or more, but for
the zero padding; both for the messages whose ciphertext has a length that the `LEN` field can hold. -/
def Obligations.XxteaCommandRoundTrips : Prop :=
  ∀ (s : State) (b : List Byte), s.status.fatal = false → s.status.xv = true →
    (1 ≤ b.length → b.length + 8 ≤ 2 ^ 20 →
      ∃ t1 t2, exec (.xxenc true (BitVec.ofNat 20 b.length)) { s with din := b } = .next t1 ∧
        exec (.xxdec true (BitVec.ofNat 20 t1.dout.length)) { t1 with din := t1.dout } = .next t2 ∧
        t2.status.err = 0#4 ∧ t2.dout = b) ∧
    (5 ≤ b.length → b.length + 4 ≤ 2 ^ 20 →
      ∃ t1 t2, exec (.xxenc false (BitVec.ofNat 20 b.length)) { s with din := b } = .next t1 ∧
        exec (.xxdec false (BitVec.ofNat 20 t1.dout.length)) { t1 with din := t1.dout } = .next t2 ∧
        t2.status.err = 0#4 ∧ t2.dout = b ++ List.replicate ((4 - b.length % 4) % 4) 0#8)

/-! ### The CFB controller -/

/-- R208: `CFBCFG` with a payload that passes every check constructs the instance; with any other it is `E_CONFIG` and
nothing is written. -/
def Obligations.CfbcfgConstructsOrRefuses : Prop :=
  ∀ (s : State) (len : BitVec 20), s.ReadyFor (.cfbcfg len) →
    (∀ bs key iv, CfbcfgPayload bs key iv s.din →
      ∃ k, IsKeyOf key k ∧ exec (.cfbcfg len) s = .next (normalEnd
        { s with ck := k, bs := bs, ivb := iv.take bs, status := { s.status with cv := true } } [])) ∧
    ((¬ ∃ bs key iv, CfbcfgPayload bs key iv s.din) → exec (.cfbcfg len) s = .next (softEnd s 1#4))

/-- R202, R203, R204, R209, R210: the chaining rule. In both directions the mask of a chunk is made from the ciphertext
chunk before it, the IV for the first; nothing is written. -/
def Obligations.CfbChainingResults : Prop :=
  ∀ (s : State) (len : BitVec 20), CfbReady s → s.bs % 4 = 0 → s.din.length = len.toNat →
    (∃ out, IsChained s s.din out out ∧ exec (.cfbenc len) s = .next (normalEnd s out)) ∧
    (∃ out, IsChained s s.din s.din out ∧ exec (.cfbdec len) s = .next (normalEnd s out))

/-- R205: a block size that is not a multiple of 4 is the fatal `E_INVARIANT` on any non-empty data, and no error on
empty data. The fatal end as a next state is the model's reading (log 5). -/
def Obligations.BadBlockSizeIsFatal : Prop :=
  ∀ (s : State) (len : BitVec 20), CfbReady s → s.bs % 4 ≠ 0 → s.din.length = len.toNat →
    (s.din ≠ [] → exec (.cfbenc len) s = .next (fatalEnd s 3#4) ∧ exec (.cfbdec len) s = .next (fatalEnd s 3#4)) ∧
    (s.din = [] → exec (.cfbenc len) s = .next (normalEnd s []) ∧ exec (.cfbdec len) s = .next (normalEnd s []))

/-- R211: `CFBDEC` of what `CFBENC` returned is the message, for every block size that is a multiple of 4. -/
def Obligations.CfbRoundTrip : Prop :=
  ∀ (s : State) (b : List Byte), CfbReady s → s.bs % 4 = 0 → b.length < 2 ^ 20 →
    ∃ t1 t2, exec (.cfbenc (BitVec.ofNat 20 b.length)) { s with din := b } = .next t1 ∧
      exec (.cfbdec (BitVec.ofNat 20 t1.dout.length)) { t1 with din := t1.dout } = .next t2 ∧
      t2.status.err = 0#4 ∧ t2.dout = b
end

