-- ==== Sys2Proof/Laws/Bank.lean ====
section
/-! SUPPORT. Letters as bytes, and the inverse lookup of a table. -/

namespace Sys2Proof.Machine

/-- The code of a letter's byte is the letter (R12). -/
@[simp] theorem letterCode_letterByte (c : Letter) : letterCode (letterByte c) = some c := by
  revert c; decide

/-- Every letter byte of the block's output is a lowercase letter (R115, R135). -/
@[simp] theorem isLower_letterByte (c : Letter) : isLower (letterByte c) = true := by
  revert c; decide

/-- A byte has a letter code exactly when it is a lowercase letter (R12, R122). -/
theorem letterCode_isSome (b : Byte) : (letterCode b).isSome = isLower b := by
  revert b; decide

/-- Adding and then taking away a position gives the letter back (R102, R123). -/
@[simp] theorem subLetter_addLetter (x p : Letter) : subLetter (addLetter x p) p = x := by
  ext; simp only [subLetter, addLetter]; omega

@[simp] theorem addLetter_subLetter (x p : Letter) : addLetter (subLetter x p) p = x := by
  ext; simp only [subLetter, addLetter]; omega

/-- In a table with no repeats the inverse lookup finds the index of an entry (R102). -/
theorem indexIn_getElem {t : Table} (h : t.toList.Nodup) (i : Letter) : indexIn t t[i] = i := by
  have inj : ∀ j : Letter, t[j] = t[i] → j = i := by
    intro j hj
    have := (List.Nodup.getElem_inj_iff h (i := j.val) (j := i.val) (hi := by simp) (hj := by simp)).1
      (by simpa using hj)
    exact Fin.ext this
  unfold indexIn
  split
  · rename_i j hj
    have := List.find?_some hj
    exact inj j (by simpa using this)
  · rename_i hn
    have := List.find?_eq_none.1 hn i (List.mem_finRange i)
    simp at this

end Sys2Proof.Machine
end

