-- ==== Sys2Proof/Laws/Decode.lean ====
section
/-! SUPPORT. The fields of a command word. -/

namespace Sys2Proof

@[simp] theorem opcField_commandWord (o : BitVec 8) (a : BitVec 4) (l : BitVec 20) :
    opcField (commandWord o a l) = o := by
  apply BitVec.eq_of_getElem_eq
  intro i hi
  simp only [opcField, commandWord, BitVec.getElem_extractLsb', BitVec.getLsbD_append]
  grind

@[simp] theorem argField_commandWord (o : BitVec 8) (a : BitVec 4) (l : BitVec 20) :
    argField (commandWord o a l) = a := by
  apply BitVec.eq_of_getElem_eq
  intro i hi
  simp only [argField, commandWord, BitVec.getElem_extractLsb', BitVec.getLsbD_append]
  grind

@[simp] theorem lenField_commandWord (o : BitVec 8) (a : BitVec 4) (l : BitVec 20) :
    lenField (commandWord o a l) = l := by
  apply BitVec.eq_of_getElem_eq
  intro i hi
  simp only [lenField, commandWord, BitVec.getElem_extractLsb', BitVec.getLsbD_append]
  grind

/-- A word is its three fields (R70). -/
theorem commandWord_fields (w : Word) : commandWord (opcField w) (argField w) (lenField w) = w := by
  apply BitVec.eq_of_getLsbD_eq
  intro i hi
  have h : (commandWord (opcField w) (argField w) (lenField w)).getLsbD i =
      (w.extractLsb' 24 8 ++ w.extractLsb' 20 4 ++ w.extractLsb' 0 20).getLsbD i := rfl
  rw [h]
  simp only [BitVec.getLsbD_append, BitVec.getLsbD_extractLsb']
  grind

/-- `decode.plain` answers an instruction only when `ARG` is 0. -/
theorem decode_plain_ok {w : Word} {k : Except Illegal Instr} {i : Instr} :
    decode.plain w k = .ok i ↔ argField w = 0#4 ∧ k = .ok i := by
  unfold decode.plain; split <;> simp_all

/-- `decode.fixed` answers its instruction only when `LEN` is the row's. -/
theorem decode_fixed_ok {w : Word} {n : BitVec 20} {i j : Instr} :
    decode.fixed w n i = .ok j ↔ lenField w = n ∧ i = j := by
  unfold decode.fixed; split <;> simp_all

/-- `decode.flagged` answers an instruction only when `ARG` is 0 or 1, and then `il` is that bit. -/
theorem decode_flagged_ok {w : Word} {k : Bool → Except Illegal Instr} {i : Instr} :
    decode.flagged w k = .ok i ↔ ∃ il, argField w = ilArg il ∧ k il = .ok i := by
  unfold decode.flagged ilArg; split <;> [skip; split] <;> simp_all

/-- `decode.slotted` answers an instruction only when `ARG` is 0, 1 or 2, and then that is the slot. -/
theorem decode_slotted_ok {w : Word} {f : Slot → Except Illegal Instr} {i : Instr} :
    decode.slotted w f = .ok i ↔ ∃ k : Slot, argField w = slotArg k ∧ f k = .ok i := by
  unfold decode.slotted
  have h0 : slotArg 0 = 0#4 := rfl
  have h1 : slotArg 1 = 1#4 := rfl
  have h2 : slotArg 2 = 2#4 := rfl
  simp only [Fin.exists_fin_succ, h0]
  split
  · simp_all
  · split
    · simp_all
    · split <;> [skip; split] <;> simp_all

end Sys2Proof
end

