-- ==== Sys2Proof/Laws/State.lean ====
section
/-! SUPPORT. One lemma per field per update of State, each true by definition, so that no later proof unfolds a
record update. -/

namespace Sys2Proof.Machine

variable (s : State)

@[simp] theorem State.endCommand_rw (out : List Byte) (e : BitVec 4) (f : Bool) : (s.endCommand out e f).rw = s.rw := rfl
@[simp] theorem State.endCommand_notch (out : List Byte) (e : BitVec 4) (f : Bool) : (s.endCommand out e f).notch = s.notch := rfl
@[simp] theorem State.endCommand_start (out : List Byte) (e : BitVec 4) (f : Bool) : (s.endCommand out e f).start = s.start := rfl
@[simp] theorem State.endCommand_ref (out : List Byte) (e : BitVec 4) (f : Bool) : (s.endCommand out e f).ref = s.ref := rfl
@[simp] theorem State.endCommand_plg (out : List Byte) (e : BitVec 4) (f : Bool) : (s.endCommand out e f).plg = s.plg := rfl
@[simp] theorem State.endCommand_pos (out : List Byte) (e : BitVec 4) (f : Bool) : (s.endCommand out e f).pos = s.pos := rfl
@[simp] theorem State.endCommand_xk (out : List Byte) (e : BitVec 4) (f : Bool) : (s.endCommand out e f).xk = s.xk := rfl
@[simp] theorem State.endCommand_ck (out : List Byte) (e : BitVec 4) (f : Bool) : (s.endCommand out e f).ck = s.ck := rfl
@[simp] theorem State.endCommand_bs (out : List Byte) (e : BitVec 4) (f : Bool) : (s.endCommand out e f).bs = s.bs := rfl
@[simp] theorem State.endCommand_ivb (out : List Byte) (e : BitVec 4) (f : Bool) : (s.endCommand out e f).ivb = s.ivb := rfl
@[simp] theorem State.endCommand_v (out : List Byte) (e : BitVec 4) (f : Bool) : (s.endCommand out e f).v = s.v := rfl
@[simp] theorem State.endCommand_status (out : List Byte) (e : BitVec 4) (f : Bool) : (s.endCommand out e f).status = { s.status with err := e, fatal := s.status.fatal || f } := rfl
@[simp] theorem State.endCommand_outlen (out : List Byte) (e : BitVec 4) (f : Bool) : (s.endCommand out e f).outlen = BitVec.ofNat 32 out.length := rfl
@[simp] theorem State.endCommand_cseq (out : List Byte) (e : BitVec 4) (f : Bool) : (s.endCommand out e f).cseq = s.cseq + 1#32 := rfl
@[simp] theorem State.endCommand_dout (out : List Byte) (e : BitVec 4) (f : Bool) : (s.endCommand out e f).dout = out := rfl
@[simp] theorem State.endCommand_din (out : List Byte) (e : BitVec 4) (f : Bool) : (s.endCommand out e f).din = [] := rfl
@[simp] theorem State.endCommand_host (out : List Byte) (e : BitVec 4) (f : Bool) : (s.endCommand out e f).host = s.host := rfl
@[simp] theorem State.endCommand_plugOverlap (out : List Byte) (e : BitVec 4) (f : Bool) : (s.endCommand out e f).plugOverlap = s.plugOverlap := rfl

@[simp] theorem State.retire_rw (out : List Byte) : (s.retire out).rw = s.rw := rfl
@[simp] theorem State.retire_notch (out : List Byte) : (s.retire out).notch = s.notch := rfl
@[simp] theorem State.retire_start (out : List Byte) : (s.retire out).start = s.start := rfl
@[simp] theorem State.retire_ref (out : List Byte) : (s.retire out).ref = s.ref := rfl
@[simp] theorem State.retire_plg (out : List Byte) : (s.retire out).plg = s.plg := rfl
@[simp] theorem State.retire_pos (out : List Byte) : (s.retire out).pos = s.pos := rfl
@[simp] theorem State.retire_xk (out : List Byte) : (s.retire out).xk = s.xk := rfl
@[simp] theorem State.retire_ck (out : List Byte) : (s.retire out).ck = s.ck := rfl
@[simp] theorem State.retire_bs (out : List Byte) : (s.retire out).bs = s.bs := rfl
@[simp] theorem State.retire_ivb (out : List Byte) : (s.retire out).ivb = s.ivb := rfl
@[simp] theorem State.retire_v (out : List Byte) : (s.retire out).v = s.v := rfl
@[simp] theorem State.retire_status (out : List Byte) : (s.retire out).status = { s.status with err := 0#4, fatal := s.status.fatal || false } := rfl
@[simp] theorem State.retire_outlen (out : List Byte) : (s.retire out).outlen = BitVec.ofNat 32 out.length := rfl
@[simp] theorem State.retire_cseq (out : List Byte) : (s.retire out).cseq = s.cseq + 1#32 := rfl
@[simp] theorem State.retire_dout (out : List Byte) : (s.retire out).dout = out := rfl
@[simp] theorem State.retire_din (out : List Byte) : (s.retire out).din = [] := rfl
@[simp] theorem State.retire_host (out : List Byte) : (s.retire out).host = s.host := rfl
@[simp] theorem State.retire_plugOverlap (out : List Byte) : (s.retire out).plugOverlap = s.plugOverlap := rfl

@[simp] theorem State.raise_rw (e : Err) : (s.raise e).rw = s.rw := rfl
@[simp] theorem State.raise_notch (e : Err) : (s.raise e).notch = s.notch := rfl
@[simp] theorem State.raise_start (e : Err) : (s.raise e).start = s.start := rfl
@[simp] theorem State.raise_ref (e : Err) : (s.raise e).ref = s.ref := rfl
@[simp] theorem State.raise_plg (e : Err) : (s.raise e).plg = s.plg := rfl
@[simp] theorem State.raise_pos (e : Err) : (s.raise e).pos = s.pos := rfl
@[simp] theorem State.raise_xk (e : Err) : (s.raise e).xk = s.xk := rfl
@[simp] theorem State.raise_ck (e : Err) : (s.raise e).ck = s.ck := rfl
@[simp] theorem State.raise_bs (e : Err) : (s.raise e).bs = s.bs := rfl
@[simp] theorem State.raise_ivb (e : Err) : (s.raise e).ivb = s.ivb := rfl
@[simp] theorem State.raise_v (e : Err) : (s.raise e).v = s.v := rfl
@[simp] theorem State.raise_status (e : Err) : (s.raise e).status = { s.status with err := e.code, fatal := s.status.fatal || e.isFatal } := rfl
@[simp] theorem State.raise_outlen (e : Err) : (s.raise e).outlen = 0#32 := rfl
@[simp] theorem State.raise_cseq (e : Err) : (s.raise e).cseq = s.cseq + 1#32 := rfl
@[simp] theorem State.raise_dout (e : Err) : (s.raise e).dout = [] := rfl
@[simp] theorem State.raise_din (e : Err) : (s.raise e).din = [] := rfl
@[simp] theorem State.raise_host (e : Err) : (s.raise e).host = s.host := rfl
@[simp] theorem State.raise_plugOverlap (e : Err) : (s.raise e).plugOverlap = s.plugOverlap := rfl

@[simp] theorem State.withHost_rw (h : List HostAction) : (s.withHost h).rw = s.rw := rfl
@[simp] theorem State.withHost_notch (h : List HostAction) : (s.withHost h).notch = s.notch := rfl
@[simp] theorem State.withHost_start (h : List HostAction) : (s.withHost h).start = s.start := rfl
@[simp] theorem State.withHost_ref (h : List HostAction) : (s.withHost h).ref = s.ref := rfl
@[simp] theorem State.withHost_plg (h : List HostAction) : (s.withHost h).plg = s.plg := rfl
@[simp] theorem State.withHost_pos (h : List HostAction) : (s.withHost h).pos = s.pos := rfl
@[simp] theorem State.withHost_xk (h : List HostAction) : (s.withHost h).xk = s.xk := rfl
@[simp] theorem State.withHost_ck (h : List HostAction) : (s.withHost h).ck = s.ck := rfl
@[simp] theorem State.withHost_bs (h : List HostAction) : (s.withHost h).bs = s.bs := rfl
@[simp] theorem State.withHost_ivb (h : List HostAction) : (s.withHost h).ivb = s.ivb := rfl
@[simp] theorem State.withHost_v (h : List HostAction) : (s.withHost h).v = s.v := rfl
@[simp] theorem State.withHost_status (h : List HostAction) : (s.withHost h).status = s.status := rfl
@[simp] theorem State.withHost_outlen (h : List HostAction) : (s.withHost h).outlen = s.outlen := rfl
@[simp] theorem State.withHost_cseq (h : List HostAction) : (s.withHost h).cseq = s.cseq := rfl
@[simp] theorem State.withHost_dout (h : List HostAction) : (s.withHost h).dout = s.dout := rfl
@[simp] theorem State.withHost_din (h : List HostAction) : (s.withHost h).din = s.din := rfl
@[simp] theorem State.withHost_host (h : List HostAction) : (s.withHost h).host = h := rfl
@[simp] theorem State.withHost_plugOverlap (h : List HostAction) : (s.withHost h).plugOverlap = s.plugOverlap := rfl

@[simp] theorem State.accept_rw (p : List Byte) : (s.accept p).rw = s.rw := rfl
@[simp] theorem State.accept_notch (p : List Byte) : (s.accept p).notch = s.notch := rfl
@[simp] theorem State.accept_start (p : List Byte) : (s.accept p).start = s.start := rfl
@[simp] theorem State.accept_ref (p : List Byte) : (s.accept p).ref = s.ref := rfl
@[simp] theorem State.accept_plg (p : List Byte) : (s.accept p).plg = s.plg := rfl
@[simp] theorem State.accept_pos (p : List Byte) : (s.accept p).pos = s.pos := rfl
@[simp] theorem State.accept_xk (p : List Byte) : (s.accept p).xk = s.xk := rfl
@[simp] theorem State.accept_ck (p : List Byte) : (s.accept p).ck = s.ck := rfl
@[simp] theorem State.accept_bs (p : List Byte) : (s.accept p).bs = s.bs := rfl
@[simp] theorem State.accept_ivb (p : List Byte) : (s.accept p).ivb = s.ivb := rfl
@[simp] theorem State.accept_v (p : List Byte) : (s.accept p).v = s.v := rfl
@[simp] theorem State.accept_status (p : List Byte) : (s.accept p).status = s.status := rfl
@[simp] theorem State.accept_outlen (p : List Byte) : (s.accept p).outlen = s.outlen := rfl
@[simp] theorem State.accept_cseq (p : List Byte) : (s.accept p).cseq = s.cseq := rfl
@[simp] theorem State.accept_dout (p : List Byte) : (s.accept p).dout = s.dout := rfl
@[simp] theorem State.accept_din (p : List Byte) : (s.accept p).din = p := rfl
@[simp] theorem State.accept_host (p : List Byte) : (s.accept p).host = s.host := rfl
@[simp] theorem State.accept_plugOverlap (p : List Byte) : (s.accept p).plugOverlap = s.plugOverlap := rfl

@[simp] theorem State.takeReset_rw : (s.takeReset).rw = State.reset.rw := rfl
@[simp] theorem State.takeReset_notch : (s.takeReset).notch = State.reset.notch := rfl
@[simp] theorem State.takeReset_start : (s.takeReset).start = State.reset.start := rfl
@[simp] theorem State.takeReset_ref : (s.takeReset).ref = State.reset.ref := rfl
@[simp] theorem State.takeReset_plg : (s.takeReset).plg = State.reset.plg := rfl
@[simp] theorem State.takeReset_pos : (s.takeReset).pos = State.reset.pos := rfl
@[simp] theorem State.takeReset_xk : (s.takeReset).xk = State.reset.xk := rfl
@[simp] theorem State.takeReset_ck : (s.takeReset).ck = State.reset.ck := rfl
@[simp] theorem State.takeReset_bs : (s.takeReset).bs = State.reset.bs := rfl
@[simp] theorem State.takeReset_ivb : (s.takeReset).ivb = State.reset.ivb := rfl
@[simp] theorem State.takeReset_v : (s.takeReset).v = State.reset.v := rfl
@[simp] theorem State.takeReset_status : (s.takeReset).status = State.reset.status := rfl
@[simp] theorem State.takeReset_outlen : (s.takeReset).outlen = State.reset.outlen := rfl
@[simp] theorem State.takeReset_cseq : (s.takeReset).cseq = State.reset.cseq := rfl
@[simp] theorem State.takeReset_dout : (s.takeReset).dout = State.reset.dout := rfl
@[simp] theorem State.takeReset_din : (s.takeReset).din = State.reset.din := rfl
@[simp] theorem State.takeReset_host : (s.takeReset).host = s.host := rfl
@[simp] theorem State.takeReset_plugOverlap : (s.takeReset).plugOverlap = s.plugOverlap := rfl

@[simp] theorem State.configureEnigma_rw (r : EnigmaRecord) : (s.configureEnigma r).rw = #v[r.rotor0.wiring, r.rotor1.wiring, r.rotor2.wiring] := rfl
@[simp] theorem State.configureEnigma_notch (r : EnigmaRecord) : (s.configureEnigma r).notch = #v[r.rotor0.notch, r.rotor1.notch, r.rotor2.notch] := rfl
@[simp] theorem State.configureEnigma_start (r : EnigmaRecord) : (s.configureEnigma r).start = #v[r.rotor0.start, r.rotor1.start, r.rotor2.start] := rfl
@[simp] theorem State.configureEnigma_ref (r : EnigmaRecord) : (s.configureEnigma r).ref = r.ref := rfl
@[simp] theorem State.configureEnigma_plg (r : EnigmaRecord) : (s.configureEnigma r).plg = buildPlug s.plugOverlap r.pairs := rfl
@[simp] theorem State.configureEnigma_pos (r : EnigmaRecord) : (s.configureEnigma r).pos = #v[r.rotor0.start, r.rotor1.start, r.rotor2.start] := rfl
@[simp] theorem State.configureEnigma_xk (r : EnigmaRecord) : (s.configureEnigma r).xk = s.xk := rfl
@[simp] theorem State.configureEnigma_ck (r : EnigmaRecord) : (s.configureEnigma r).ck = s.ck := rfl
@[simp] theorem State.configureEnigma_bs (r : EnigmaRecord) : (s.configureEnigma r).bs = s.bs := rfl
@[simp] theorem State.configureEnigma_ivb (r : EnigmaRecord) : (s.configureEnigma r).ivb = s.ivb := rfl
@[simp] theorem State.configureEnigma_v (r : EnigmaRecord) : (s.configureEnigma r).v = s.v := rfl
@[simp] theorem State.configureEnigma_status (r : EnigmaRecord) : (s.configureEnigma r).status = { s.status with ev := true } := rfl
@[simp] theorem State.configureEnigma_outlen (r : EnigmaRecord) : (s.configureEnigma r).outlen = s.outlen := rfl
@[simp] theorem State.configureEnigma_cseq (r : EnigmaRecord) : (s.configureEnigma r).cseq = s.cseq := rfl
@[simp] theorem State.configureEnigma_dout (r : EnigmaRecord) : (s.configureEnigma r).dout = s.dout := rfl
@[simp] theorem State.configureEnigma_din (r : EnigmaRecord) : (s.configureEnigma r).din = s.din := rfl
@[simp] theorem State.configureEnigma_host (r : EnigmaRecord) : (s.configureEnigma r).host = s.host := rfl
@[simp] theorem State.configureEnigma_plugOverlap (r : EnigmaRecord) : (s.configureEnigma r).plugOverlap = s.plugOverlap := rfl

@[simp] theorem State.configureCfb_rw (r : CfbRecord) : (s.configureCfb r).rw = s.rw := rfl
@[simp] theorem State.configureCfb_notch (r : CfbRecord) : (s.configureCfb r).notch = s.notch := rfl
@[simp] theorem State.configureCfb_start (r : CfbRecord) : (s.configureCfb r).start = s.start := rfl
@[simp] theorem State.configureCfb_ref (r : CfbRecord) : (s.configureCfb r).ref = s.ref := rfl
@[simp] theorem State.configureCfb_plg (r : CfbRecord) : (s.configureCfb r).plg = s.plg := rfl
@[simp] theorem State.configureCfb_pos (r : CfbRecord) : (s.configureCfb r).pos = s.pos := rfl
@[simp] theorem State.configureCfb_xk (r : CfbRecord) : (s.configureCfb r).xk = s.xk := rfl
@[simp] theorem State.configureCfb_ck (r : CfbRecord) : (s.configureCfb r).ck = deriveKey r.key := rfl
@[simp] theorem State.configureCfb_bs (r : CfbRecord) : (s.configureCfb r).bs = r.blockSize := rfl
@[simp] theorem State.configureCfb_ivb (r : CfbRecord) : (s.configureCfb r).ivb = r.iv.take r.blockSize := rfl
@[simp] theorem State.configureCfb_v (r : CfbRecord) : (s.configureCfb r).v = s.v := rfl
@[simp] theorem State.configureCfb_status (r : CfbRecord) : (s.configureCfb r).status = { s.status with cv := true } := rfl
@[simp] theorem State.configureCfb_outlen (r : CfbRecord) : (s.configureCfb r).outlen = s.outlen := rfl
@[simp] theorem State.configureCfb_cseq (r : CfbRecord) : (s.configureCfb r).cseq = s.cseq := rfl
@[simp] theorem State.configureCfb_dout (r : CfbRecord) : (s.configureCfb r).dout = s.dout := rfl
@[simp] theorem State.configureCfb_din (r : CfbRecord) : (s.configureCfb r).din = s.din := rfl
@[simp] theorem State.configureCfb_host (r : CfbRecord) : (s.configureCfb r).host = s.host := rfl
@[simp] theorem State.configureCfb_plugOverlap (r : CfbRecord) : (s.configureCfb r).plugOverlap = s.plugOverlap := rfl

@[simp] theorem State.loadStart_rw : (s.loadStart).rw = s.rw := rfl
@[simp] theorem State.loadStart_notch : (s.loadStart).notch = s.notch := rfl
@[simp] theorem State.loadStart_start : (s.loadStart).start = s.start := rfl
@[simp] theorem State.loadStart_ref : (s.loadStart).ref = s.ref := rfl
@[simp] theorem State.loadStart_plg : (s.loadStart).plg = s.plg := rfl
@[simp] theorem State.loadStart_pos : (s.loadStart).pos = s.start := rfl
@[simp] theorem State.loadStart_xk : (s.loadStart).xk = s.xk := rfl
@[simp] theorem State.loadStart_ck : (s.loadStart).ck = s.ck := rfl
@[simp] theorem State.loadStart_bs : (s.loadStart).bs = s.bs := rfl
@[simp] theorem State.loadStart_ivb : (s.loadStart).ivb = s.ivb := rfl
@[simp] theorem State.loadStart_v : (s.loadStart).v = s.v := rfl
@[simp] theorem State.loadStart_status : (s.loadStart).status = s.status := rfl
@[simp] theorem State.loadStart_outlen : (s.loadStart).outlen = s.outlen := rfl
@[simp] theorem State.loadStart_cseq : (s.loadStart).cseq = s.cseq := rfl
@[simp] theorem State.loadStart_dout : (s.loadStart).dout = s.dout := rfl
@[simp] theorem State.loadStart_din : (s.loadStart).din = s.din := rfl
@[simp] theorem State.loadStart_host : (s.loadStart).host = s.host := rfl
@[simp] theorem State.loadStart_plugOverlap : (s.loadStart).plugOverlap = s.plugOverlap := rfl

@[simp] theorem State.stepRotors_rw : (s.stepRotors).rw = s.rw := rfl
@[simp] theorem State.stepRotors_notch : (s.stepRotors).notch = s.notch := rfl
@[simp] theorem State.stepRotors_start : (s.stepRotors).start = s.start := rfl
@[simp] theorem State.stepRotors_ref : (s.stepRotors).ref = s.ref := rfl
@[simp] theorem State.stepRotors_plg : (s.stepRotors).plg = s.plg := rfl
@[simp] theorem State.stepRotors_xk : (s.stepRotors).xk = s.xk := rfl
@[simp] theorem State.stepRotors_ck : (s.stepRotors).ck = s.ck := rfl
@[simp] theorem State.stepRotors_bs : (s.stepRotors).bs = s.bs := rfl
@[simp] theorem State.stepRotors_ivb : (s.stepRotors).ivb = s.ivb := rfl
@[simp] theorem State.stepRotors_v : (s.stepRotors).v = s.v := rfl
@[simp] theorem State.stepRotors_status : (s.stepRotors).status = s.status := rfl
@[simp] theorem State.stepRotors_outlen : (s.stepRotors).outlen = s.outlen := rfl
@[simp] theorem State.stepRotors_cseq : (s.stepRotors).cseq = s.cseq := rfl
@[simp] theorem State.stepRotors_dout : (s.stepRotors).dout = s.dout := rfl
@[simp] theorem State.stepRotors_din : (s.stepRotors).din = s.din := rfl
@[simp] theorem State.stepRotors_host : (s.stepRotors).host = s.host := rfl
@[simp] theorem State.stepRotors_plugOverlap : (s.stepRotors).plugOverlap = s.plugOverlap := rfl

@[simp] theorem State.finish_ok (t : State) (out : List Byte) : s.finish (.ok (t, out)) = t.retire out := rfl
@[simp] theorem State.finish_error (e : Err) : s.finish (.error e) = s.raise e := rfl
@[simp] theorem State.hasInstance_none : s.hasInstance none = true := rfl
@[simp] theorem State.hasInstance_some (u : CipherUnit) : s.hasInstance (some u) = s.status.valid u := rfl

end Sys2Proof.Machine
end

