-- ==== Sys2Proof/Laws/Ops.lean ====
section
/-! SUPPORT. What the frame of every command can do, said once. -/

namespace Sys2Proof.Machine

variable {len : Nat} {unit : Option CipherUnit} {s t : State} {body : State → List Byte → CommandEnd}

/-- Not accepted while `FATAL` = 1: nothing happens. -/
theorem runCommand_fatal (h : s.status.fatal = true) : runCommand len unit s body = .next s := by
  simp [runCommand, h]

/-- The instance is missing: `E_NOINST`. -/
theorem runCommand_missing (hf : s.status.fatal = false) (hl : s.din.length = len)
    (hu : s.hasInstance unit = false) : runCommand len unit s body = .next (s.raise .noInst) := by
  simp [runCommand, hf, hl, hu]

/-- A command that is accepted and has its instance ends as its pseudocode comes out. -/
theorem runCommand_ready (hf : s.status.fatal = false) (hl : s.din.length = len)
    (hu : s.hasInstance unit = true) : runCommand len unit s body = .next (s.finish (body s s.din)) := by
  simp [runCommand, hf, hl, hu]

/-- Everything a command can answer: nothing happens, `E_NOINST`, or the end of its pseudocode. -/
theorem runCommand_next (h : runCommand len unit s body = .next t) :
    (s.status.fatal = true ∧ t = s) ∨
    (s.status.fatal = false ∧ s.din.length = len ∧ s.hasInstance unit = false ∧ t = s.raise .noInst) ∨
    (s.status.fatal = false ∧ s.din.length = len ∧ s.hasInstance unit = true ∧ t = s.finish (body s s.din)) := by
  unfold runCommand at h
  split at h
  · exact .inl ⟨‹_›, by simpa using h.symm⟩
  · split at h
    · cases h
    · split at h <;> simp_all

/-- A command never refuses. -/
theorem runCommand_not_refused (r : Refusal) : runCommand len unit s body ≠ .refused r := by
  unfold runCommand
  split <;> [skip; (split <;> [skip; split])] <;> simp

end Sys2Proof.Machine
end

