-- ==== Sys2Proof/Laws/Exec.lean ====
section
/-! SUPPORT. The shape of `exec`: every instruction is `runCommand` with the payload length of its row, the
instance it needs and its own pseudocode. -/

namespace Sys2Proof.Machine

/-- The pseudocode of a primitive lookup. -/
def letterBody (f : State → Letter → Letter) (s : State) (din : List Byte) : CommandEnd :=
  match letterOperand din with
  | .ok x => .ok (s, [letterByte (f s x)])
  | .error e => .error e

/-- The pseudocode of an instruction, over the state and its payload. -/
def commandBody : Instr → State → List Byte → CommandEnd
  | .nop => fun s _ => .ok (s, [])
  | .encfg _ => fun s din =>
    match enigmaRecord din with
    | some r => .ok (s.configureEnigma r, [])
    | none => .error .config
  | .rfwd k => letterBody fun s x => s.rotFwd k x
  | .rinv k => letterBody fun s x => s.rotInv k x
  | .raln k => fun s _ => .ok (s, [if s.aligned k then 0x01#8 else 0x00#8])
  | .refl => letterBody fun s x => s.reflect x
  | .plug => letterBody fun s x => s.plugOf x
  | .fchain => letterBody fun s x => s.fchain x
  | .ichain => letterBody fun s x => s.ichain x
  | .erst => fun s _ => .ok (s.loadStart, [])
  | .estep => fun s _ => .ok (s.stepRotors, [])
  | .estrm _ => fun s din => .ok (enigmaStream s din)
  | .enige _ => fun s din => .ok (s.enigmaCall din)
  | .enigd _ => fun s din => .ok (s.enigmaCall din)
  | .pack il _ => fun s din => .ok ({ s with v := bytesToWords din il }, [])
  | .unpack il => fun s _ =>
    match wordsToBytes s.v il with
    | some r => .ok (s, r)
    | none => .error .corrupt
  | .xkey _ => fun s din => .ok ({ s with xk := deriveKey din, status := { s.status with xv := true } }, [])
  | .xenc => fun s _ => if s.v = [] then .error .empty else .ok ({ s with v := xxteaEncrypt s.v s.xk }, [])
  | .xdec => fun s _ => if s.v = [] then .error .empty else .ok ({ s with v := xxteaDecrypt s.v s.xk }, [])
  | .xxenc il _ => fun s din =>
    if bytesToWords din il = [] then .error .empty
    else .ok (s, dataBytes (xxteaEncrypt (bytesToWords din il) s.xk))
  | .xxdec il _ => fun s din =>
    if bytesToWords din false = [] then .error .empty
    else
      match wordsToBytes (xxteaDecrypt (bytesToWords din false) s.xk) il with
      | some r => .ok (s, r)
      | none => .error .corrupt
  | .cfbcfg _ => fun s din =>
    match cfbRecord din with
    | some r => .ok (s.configureCfb r, [])
    | none => .error .config
  | .cfbenc _ => fun s din =>
    match s.cfb .enc din with
    | .ok out => .ok (s, out)
    | .error e => .error e
  | .cfbdec _ => fun s din =>
    match s.cfb .dec din with
    | .ok out => .ok (s, out)
    | .error e => .error e

/-- `exec` is the frame of every command around the instruction's own pseudocode. -/
theorem exec_eq_runCommand (i : Instr) (s : State) :
    exec i s = runCommand i.payloadLen i.needs s (commandBody i) := by
  cases i <;> rfl

/-- Everything `exec` can answer with a next state. -/
theorem exec_next {i : Instr} {s t : State} (h : exec i s = .next t) :
    (s.status.fatal = true ∧ t = s) ∨
    (s.ReadyFor i ∧ s.hasInstance i.needs = false ∧ t = s.raise .noInst) ∨
    (s.ReadyFor i ∧ s.hasInstance i.needs = true ∧ t = s.finish (commandBody i s s.din)) := by
  rw [exec_eq_runCommand] at h
  rcases runCommand_next h with h | ⟨a, b, c⟩ | ⟨a, b, c⟩
  · exact .inl h
  · exact .inr (.inl ⟨⟨a, b⟩, c⟩)
  · exact .inr (.inr ⟨⟨a, b⟩, c⟩)

/-- A ready instruction with its instance ends as its pseudocode comes out. -/
theorem exec_ready {i : Instr} {s : State} (h : s.ReadyFor i) (hu : s.hasInstance i.needs = true) :
    exec i s = .next (s.finish (commandBody i s s.din)) := by
  rw [exec_eq_runCommand]; exact runCommand_ready h.1 h.2 hu

/-- Meeting a host action never refuses. -/
theorem step_not_refused (s : State) (r : Refusal) : step s ≠ .refused r := by
  unfold step
  split
  · simp
  · rename_i a rest _
    cases a with
    | command c =>
      simp only [meetAction, presentCommand]
      split
      · simp
      · split
        · rw [exec_eq_runCommand]; exact runCommand_not_refused r
        · exact runCommand_not_refused r
    | commandThenReset c => simp [meetAction]
    | reset => simp [meetAction]

end Sys2Proof.Machine
end

