-- ==== Sys2Proof/Laws/Packer.lean ====
section
/-! SUPPORT. The word packer: lengths, and one word there and back. -/

namespace Sys2Proof.Machine

/-- `D = ceil(L / 4)` data words (R151). -/
theorem dataWords_length (b : List Byte) : (dataWords b).length = (b.length + 3) / 4 := by
  induction b using dataWords.induct with
  | case5 b0 b1 b2 b3 rest ih => simp [dataWords, ih]; omega
  | _ => simp [dataWords]

/-- The array is `D` words, and one more with the length word (R151). -/
theorem bytesToWords_length (b : List Byte) (il : Bool) :
    (bytesToWords b il).length = (b.length + 3) / 4 + il.toNat := by
  cases il <;> simp [bytesToWords, dataWords_length]

/-- `4W` bytes from `W` words (R152). -/
theorem dataBytes_length (w : List Word) : (dataBytes w).length = 4 * w.length := by
  induction w with
  | nil => rfl
  | cons a w ih => simp only [dataBytes, List.flatMap_cons, List.length_append, bytesOfWord] at *; simp at *; omega

/-- The bytes of a word made of four bytes are those bytes (R55). -/
theorem bytesOfWord_wordOfBytes (b0 b1 b2 b3 : Byte) :
    bytesOfWord (wordOfBytes b0 b1 b2 b3) = [b0, b1, b2, b3] := by
  simp only [bytesOfWord, List.cons.injEq, and_true]
  refine ⟨?_, ?_, ?_, ?_⟩ <;>
  · apply BitVec.eq_of_getElem_eq
    intro i hi
    simp only [wordOfBytes, BitVec.getElem_extractLsb', BitVec.getLsbD_append]
    grind

/-- A word is made of its four bytes (R55). -/
theorem wordOfBytes_bytesOfWord (w : Word) :
    wordOfBytes (w.extractLsb' 0 8) (w.extractLsb' 8 8) (w.extractLsb' 16 8) (w.extractLsb' 24 8) = w := by
  apply BitVec.eq_of_getLsbD_eq
  intro i hi
  have h : (wordOfBytes (w.extractLsb' 0 8) (w.extractLsb' 8 8) (w.extractLsb' 16 8) (w.extractLsb' 24 8)).getLsbD i =
      (w.extractLsb' 24 8 ++ w.extractLsb' 16 8 ++ w.extractLsb' 8 8 ++ w.extractLsb' 0 8).getLsbD i := rfl
  rw [h]
  simp only [BitVec.getLsbD_append, BitVec.getLsbD_extractLsb']
  grind

end Sys2Proof.Machine
end

