-- ==== Sys2Proof/Laws/PerInstr.lean ====
section
/-! SUPPORT. Statements about every instruction, one lemma per constructor. -/

namespace Sys2Proof.Laws.LengthField

/-- The `LEN` field of an instruction's word is the number of payload bytes it comes with (R70, R72). -/
def Statement (i : Instr) : Prop := (lenField (encode i)).toNat = i.payloadLen

theorem nop : Statement .nop := by simp [Statement, encode, Instr.payloadLen]
theorem encfg (x0 : BitVec 20) : Statement (.encfg x0) := by simp [Statement, encode, Instr.payloadLen]
theorem rfwd (x0 : Slot) : Statement (.rfwd x0) := by simp [Statement, encode, Instr.payloadLen]
theorem rinv (x0 : Slot) : Statement (.rinv x0) := by simp [Statement, encode, Instr.payloadLen]
theorem raln (x0 : Slot) : Statement (.raln x0) := by simp [Statement, encode, Instr.payloadLen]
theorem refl : Statement .refl := by simp [Statement, encode, Instr.payloadLen]
theorem plug : Statement .plug := by simp [Statement, encode, Instr.payloadLen]
theorem fchain : Statement .fchain := by simp [Statement, encode, Instr.payloadLen]
theorem ichain : Statement .ichain := by simp [Statement, encode, Instr.payloadLen]
theorem erst : Statement .erst := by simp [Statement, encode, Instr.payloadLen]
theorem estep : Statement .estep := by simp [Statement, encode, Instr.payloadLen]
theorem estrm (x0 : BitVec 20) : Statement (.estrm x0) := by simp [Statement, encode, Instr.payloadLen]
theorem enige (x0 : BitVec 20) : Statement (.enige x0) := by simp [Statement, encode, Instr.payloadLen]
theorem enigd (x0 : BitVec 20) : Statement (.enigd x0) := by simp [Statement, encode, Instr.payloadLen]
theorem pack (x0 : Bool) (x1 : BitVec 20) : Statement (.pack x0 x1) := by simp [Statement, encode, Instr.payloadLen]
theorem unpack (x0 : Bool) : Statement (.unpack x0) := by simp [Statement, encode, Instr.payloadLen]
theorem xkey (x0 : BitVec 20) : Statement (.xkey x0) := by simp [Statement, encode, Instr.payloadLen]
theorem xenc : Statement .xenc := by simp [Statement, encode, Instr.payloadLen]
theorem xdec : Statement .xdec := by simp [Statement, encode, Instr.payloadLen]
theorem xxenc (x0 : Bool) (x1 : BitVec 20) : Statement (.xxenc x0 x1) := by simp [Statement, encode, Instr.payloadLen]
theorem xxdec (x0 : Bool) (x1 : BitVec 20) : Statement (.xxdec x0 x1) := by simp [Statement, encode, Instr.payloadLen]
theorem cfbcfg (x0 : BitVec 20) : Statement (.cfbcfg x0) := by simp [Statement, encode, Instr.payloadLen]
theorem cfbenc (x0 : BitVec 20) : Statement (.cfbenc x0) := by simp [Statement, encode, Instr.payloadLen]
theorem cfbdec (x0 : BitVec 20) : Statement (.cfbdec x0) := by simp [Statement, encode, Instr.payloadLen]

end Sys2Proof.Laws.LengthField
end

