-- ==== Sys2Proof/Laws/Rotor.lean ====
section
/-! SUPPORT. The Enigma stream writes the positions and nothing else. -/

namespace Sys2Proof.Machine

/-- A step of the rotors writes the positions only (R131). -/
theorem stepRotors_eq (s : State) : s.stepRotors = { s with pos := s.stepRotors.pos } := rfl

/-- The stream writes the positions only (R37, R135). -/
theorem enigmaStream_frame (s : State) (d : List Byte) :
    (enigmaStream s d).1 = { s with pos := (enigmaStream s d).1.pos } := by
  induction d generalizing s with
  | nil => rfl
  | cons b rest ih =>
    unfold enigmaStream
    split
    · exact ih s
    · simpa using ih s.stepRotors

/-- A stream has at most as many result bytes as payload bytes (R142). -/
theorem enigmaStream_length_le (s : State) (d : List Byte) : (enigmaStream s d).2.length ≤ d.length := by
  induction d generalizing s with
  | nil => simp [enigmaStream]
  | cons b rest ih =>
    unfold enigmaStream
    split
    · exact le_trans (ih s) (by simp)
    · simpa using ih s.stepRotors

end Sys2Proof.Machine
end

