-- ==== Sys2Proof/Laws/Xxtea.lean ====
section
/-! SUPPORT. The XXTEA updates keep the length of the array, and one update is undone by its inverse. -/

namespace Sys2Proof.Machine

variable (k : Key)

@[simp] theorem encUpdate_length (sum : Word) (p : Nat) (y : Word) (vz : List Word × Word) :
    (encUpdate k sum p y vz).1.length = vz.1.length := by simp [encUpdate]

@[simp] theorem decUpdate_length (sum : Word) (p : Nat) (z : Word) (vy : List Word × Word) :
    (decUpdate k sum p z vy).1.length = vy.1.length := by simp [decUpdate]

theorem encRound_length (n : Nat) (sum : Word) (vz : List Word × Word) :
    (encRound k n sum vz).1.length = vz.1.length := by
  have h : ∀ (l : List Nat) (w : List Word × Word),
      (l.foldl (fun vz p => encUpdate k sum p (wordAt vz.1 (p + 1)) vz) w).1.length = w.1.length := by
    intro l
    induction l with
    | nil => simp
    | cons p l ih => intro w; rw [List.foldl_cons, ih, encUpdate_length]
  simp [encRound, h]

theorem decRound_length (n : Nat) (sum : Word) (vy : List Word × Word) :
    (decRound k n sum vy).1.length = vy.1.length := by
  have h : ∀ (l : List Nat),
      (l.foldr (fun i vy => decUpdate k sum (i + 1) (wordAt vy.1 i) vy) vy).1.length = vy.1.length := by
    intro l
    induction l with
    | nil => simp
    | cons p l ih => rw [List.foldr_cons, decUpdate_length, ih]
  simp [decRound, h]

theorem encRounds_length (n r : Nat) (sum : Word) (vz : List Word × Word) :
    (encRounds k n r sum vz).1.length = vz.1.length := by
  induction r generalizing sum vz with
  | zero => rfl
  | succ r ih => simp [encRounds, ih, encRound_length]

theorem decRounds_length (n r : Nat) (sum : Word) (vy : List Word × Word) :
    (decRounds k n r sum vy).1.length = vy.1.length := by
  induction r generalizing sum vy with
  | zero => rfl
  | succ r ih => simp [decRounds, ih, decRound_length]

/-- `xxtea_encrypt` keeps the number of words. -/
@[simp] theorem xxteaEncrypt_length (v : List Word) : (xxteaEncrypt v k).length = v.length := by
  simp [xxteaEncrypt, encRounds_length]

/-- `xxtea_decrypt` keeps the number of words. -/
@[simp] theorem xxteaDecrypt_length (v : List Word) : (xxteaDecrypt v k).length = v.length := by
  simp [xxteaDecrypt, decRounds_length]

/-- Reading back the word just written. -/
theorem wordAt_set_self {v : List Word} {p : Nat} (h : p < v.length) (w : Word) : wordAt (v.set p w) p = w := by
  simp [wordAt, h]

/-- Writing a word leaves every other word. -/
theorem wordAt_set_ne {v : List Word} {p q : Nat} (h : q ≠ p) (w : Word) : wordAt (v.set p w) q = wordAt v q := by
  simp [wordAt, h.symm]

end Sys2Proof.Machine
end

