-- ==== Sys2Proof/Tests/Slice0.lean ====
section
/-! SUPPORT. Tests: the refusals of the well-formedness checks, words written out bit by bit from 30_encoding R74,
one-step tests from the vectors of 95_test_vectors, and for each obligation with hypotheses a state that meets
them. -/

namespace Sys2Proof.Tests

open Sys2Proof.Machine

-- One theorem at a time: kernel evaluations side by side take more memory than the check allows.
set_option Elab.async false

/-- The next state of an outcome, if it is one. -/
def nextOf : Host.Outcome State Fault Refusal → Option State
  | .next t => some t
  | _ => none

/-- One instruction run on a payload. -/
def run (i : Instr) (s : State) (din : List Byte) : Option State := nextOf (exec i { s with din := din })

/-- The next state's result bytes. -/
def result (i : Instr) (s : State) (din : List Byte) : Option (List Byte) := (run i s din).map (·.dout)

/-- The next state's low byte of `STATUS`. -/
def low (i : Instr) (s : State) (din : List Byte) : Option (BitVec 8) :=
  (run i s din).map fun t => t.status.word.extractLsb' 0 8

def reflA : Table := #v[24, 17, 20, 7, 16, 18, 11, 3, 15, 23, 13, 6, 14, 10, 12, 8, 4, 1, 5, 25, 2, 22, 21, 9, 0, 19]
def wire0 : Table := #v[4, 10, 12, 5, 11, 6, 3, 16, 21, 25, 13, 19, 14, 22, 24, 7, 23, 20, 18, 15, 0, 8, 1, 17, 2, 9]
def wire1 : Table := #v[0, 9, 3, 10, 18, 8, 17, 20, 23, 1, 11, 7, 22, 19, 12, 2, 16, 6, 25, 13, 15, 24, 5, 21, 14, 4]
def wire2 : Table := #v[1, 3, 5, 7, 9, 11, 2, 15, 17, 19, 23, 21, 25, 13, 24, 4, 8, 22, 6, 0, 10, 12, 20, 18, 16, 14]

/-- Configuration A of 95_test_vectors as `ENCFG` leaves it. -/
def stateA : State :=
  { State.reset with
    rw := #v[wire0, wire1, wire2], notch := #v[8, 8, 0], start := #v[0, 0, 0], pos := #v[0, 0, 0], ref := reflA
    plg := identityTable, status := { State.reset.status with ev := true } }

/-- Configuration B: A with a plugboard (R106's table). -/
def stateB : State := { stateA with plg := #v[0, 6, 3, 2, 17, 21, 1, 13, 20, 10, 9, 12, 11, 7, 15, 14, 16, 4, 18, 24, 8, 5, 22, 23, 19, 25] }

/-- A state with the key K9, zero or another key, and a word array. -/
def stateX (k : Key) (v : List Word) : State :=
  { State.reset with xk := k, v := v, status := { State.reset.status with xv := true } }

def key9 : Key := #v[0x72636553#32, 0x654B7465#32, 0x00000079#32, 0x00000000#32]
def key0 : Key := #v[0#32, 0#32, 0#32, 0#32]

/-- Configuration F, with the block size as given (C1, C7). -/
def stateF (n : Nat) : State :=
  { State.reset with
    ck := key9, bs := n, ivb := ([0x30#8, 0x31#8, 0x32#8, 0x33#8, 0x34#8, 0x35#8, 0x36#8, 0x37#8, 0x38#8, 0x39#8, 0x61#8, 0x62#8, 0x63#8, 0x64#8, 0x65#8, 0x66#8] : List Byte).take n
    status := { State.reset.status with cv := true } }

def hello : List Byte := [0x48#8, 0x65#8, 0x6C#8, 0x6C#8, 0x6F#8, 0x75#8, 0x77#8, 0x20#8, 0x74#8, 0x68#8, 0x65#8, 0x72#8, 0x65#8]

/-- The `ENCFG` payload of configuration A, written out. -/
def payloadA : List Byte :=
  [0x79#8, 0x72#8, 0x75#8, 0x68#8, 0x71#8, 0x73#8, 0x6C#8, 0x64#8, 0x70#8, 0x78#8, 0x6E#8, 0x67#8, 0x6F#8, 0x6B#8, 0x6D#8, 0x69#8, 0x65#8, 0x62#8, 0x66#8, 0x7A#8, 0x63#8, 0x77#8, 0x76#8, 0x6A#8, 0x61#8, 0x74#8] ++
  [0x65#8, 0x6B#8, 0x6D#8, 0x66#8, 0x6C#8, 0x67#8, 0x64#8, 0x71#8, 0x76#8, 0x7A#8, 0x6E#8, 0x74#8, 0x6F#8, 0x77#8, 0x79#8, 0x68#8, 0x78#8, 0x75#8, 0x73#8, 0x70#8, 0x61#8, 0x69#8, 0x62#8, 0x72#8, 0x63#8, 0x6A#8] ++ [0x08#8, 0x00#8] ++
  [0x61#8, 0x6A#8, 0x64#8, 0x6B#8, 0x73#8, 0x69#8, 0x72#8, 0x75#8, 0x78#8, 0x62#8, 0x6C#8, 0x68#8, 0x77#8, 0x74#8, 0x6D#8, 0x63#8, 0x71#8, 0x67#8, 0x7A#8, 0x6E#8, 0x70#8, 0x79#8, 0x66#8, 0x76#8, 0x6F#8, 0x65#8] ++ [0x08#8, 0x00#8] ++
  [0x62#8, 0x64#8, 0x66#8, 0x68#8, 0x6A#8, 0x6C#8, 0x63#8, 0x70#8, 0x72#8, 0x74#8, 0x78#8, 0x76#8, 0x7A#8, 0x6E#8, 0x79#8, 0x65#8, 0x69#8, 0x77#8, 0x67#8, 0x61#8, 0x6B#8, 0x6D#8, 0x75#8, 0x73#8, 0x71#8, 0x6F#8] ++ [0x00#8, 0x00#8]

/-! ### Witnesses: for each obligation with hypotheses, a concrete state and operands that meet all of them, one for
each clause, at the ends of its range -/

/-- A state as the host leaves it before one action. -/
def withAction (s : State) (a : HostAction) : State := { s with host := [a] }

/-- A fatal state with every flag and a count. -/
def stateFatal : State :=
  { State.reset with status := ⟨4#4, true, true, true, true⟩, cseq := 5#32, host := [.reset] }

/-- A state where every slot is aligned (configuration C). -/
def stateC : State := { stateA with notch := #v[8, 8, 0], start := #v[1, 1, 19], pos := #v[1, 1, 19] }

/-! ### Well-formedness: each check refuses an ill-formed term -/

theorem test_wf_payload_fits : Instr.wf (.rfwd 2) [0x67#8] = true := by decide
theorem test_wf_refuses_long_payload : Instr.wf (.rfwd 2) [0x67#8, 0x67#8] = false := by decide
theorem test_wf_refuses_short_payload : Instr.wf (.pack true 2) [0x67#8] = false := by decide
theorem test_command_wf_fits : Command.wf ⟨0x11200001#32, [0x67#8]⟩ = true := by decide
theorem test_command_wf_refuses : Command.wf ⟨0x11200001#32, []⟩ = false := by decide

/-! ### Decoding: a word of each row, written bit by bit (`OPC`, `ARG`, `LEN`; R70, R74) -/

theorem test_decode_nop : decode 0b00000000000000000000000000000000#32 = .ok (.nop) := by decide +kernel
theorem test_decode_encfg : decode 0b00010000000000000000000001101110#32 = .ok (.encfg 110#20) := by decide +kernel
theorem test_decode_rfwd : decode 0b00010001001000000000000000000001#32 = .ok (.rfwd 2) := by decide +kernel
theorem test_decode_rinv : decode 0b00010010000100000000000000000001#32 = .ok (.rinv 1) := by decide +kernel
theorem test_decode_raln : decode 0b00010011001000000000000000000000#32 = .ok (.raln 2) := by decide +kernel
theorem test_decode_refl : decode 0b00010100000000000000000000000001#32 = .ok (.refl) := by decide +kernel
theorem test_decode_plug : decode 0b00010101000000000000000000000001#32 = .ok (.plug) := by decide +kernel
theorem test_decode_fchain : decode 0b00010110000000000000000000000001#32 = .ok (.fchain) := by decide +kernel
theorem test_decode_ichain : decode 0b00010111000000000000000000000001#32 = .ok (.ichain) := by decide +kernel
theorem test_decode_erst : decode 0b00100000000000000000000000000000#32 = .ok (.erst) := by decide +kernel
theorem test_decode_estep : decode 0b00100001000000000000000000000000#32 = .ok (.estep) := by decide +kernel
theorem test_decode_estrm : decode 0b00100010000000000000000000000001#32 = .ok (.estrm 1#20) := by decide +kernel
theorem test_decode_enige : decode 0b00100011000000000000000000010001#32 = .ok (.enige 17#20) := by decide +kernel
theorem test_decode_enigd : decode 0b00100100000000000000000000001010#32 = .ok (.enigd 10#20) := by decide +kernel
theorem test_decode_pack : decode 0b00110000000100000000000000001101#32 = .ok (.pack true 13#20) := by decide +kernel
theorem test_decode_unpack : decode 0b00110001000100000000000000000000#32 = .ok (.unpack true) := by decide +kernel
theorem test_decode_xkey : decode 0b01000000000000000000000000001001#32 = .ok (.xkey 9#20) := by decide +kernel
theorem test_decode_xenc : decode 0b01000001000000000000000000000000#32 = .ok (.xenc) := by decide +kernel
theorem test_decode_xdec : decode 0b01000010000000000000000000000000#32 = .ok (.xdec) := by decide +kernel
theorem test_decode_xxenc : decode 0b01000011000100000000000000001101#32 = .ok (.xxenc true 13#20) := by decide +kernel
theorem test_decode_xxdec : decode 0b01000100000100000000000000010100#32 = .ok (.xxdec true 20#20) := by decide +kernel
theorem test_decode_cfbcfg : decode 0b01010000000000000000000000100001#32 = .ok (.cfbcfg 33#20) := by decide +kernel
theorem test_decode_cfbenc : decode 0b01010001000000000000000000001101#32 = .ok (.cfbenc 13#20) := by decide +kernel
theorem test_decode_cfbdec : decode 0b01010010000011111111111111111111#32 = .ok (.cfbdec 1048575#20) := by decide +kernel
theorem test_decode_no_opcode : decode 0x99000000#32 = .error .opcode := by decide +kernel
theorem test_decode_no_slot : decode 0x11300001#32 = .error .slot := by decide +kernel
theorem test_decode_bad_argument : decode 0x30200000#32 = .error .argument := by decide +kernel
theorem test_decode_bad_length : decode 0x11200002#32 = .error .length := by decide +kernel
theorem test_decode_table_word : decodeTableWord 32 0x3010000D = some (.pack true 13#20) := by decide +kernel

/-! ### One step each, from 95_test_vectors -/

/-- Bring-up: a placed word runs as the first command after reset (G3, Program 4 line 2, R32). -/
theorem test_step_runs_placed_word :
    (nextOf (step (State.reset.withFetchWord 32 0x30000000))).map (fun t => (t.v, t.cseq)) = some ([], 1#32) := by
  decide +kernel
/-- G2. -/
theorem test_step_illegal :
    (nextOf (step (State.reset.withFetchWord 32 0x99000000))).map (fun t => (t.status.word, t.cseq)) =
      some (0x05#32, 1#32) := by
  decide +kernel
/-- R113. -/
theorem test_nop : (run .nop { State.reset with cseq := 0xFFFFFFFF#32 } []).map (·.cseq) = some 0#32 := by
  decide +kernel
/-- Program 1 line 1. -/
theorem test_encfg : run (.encfg 110#20) State.reset payloadA = some { stateA with cseq := 1#32 } := by
  decide +kernel
/-- G5. -/
theorem test_encfg_short : low (.encfg 109#20) State.reset (payloadA.take 109) = some 0x01#8 := by decide +kernel
/-- P3. -/
theorem test_rfwd : result (.rfwd 2) { stateA with pos := #v[0, 0, 25] } [0x7A#8] = some [0x71#8] := by decide +kernel
/-- G17. -/
theorem test_rfwd_contract : low (.rfwd 0) stateA [0x7B#8] = some 0x94#8 := by decide +kernel
/-- P6. -/
theorem test_rinv : result (.rinv 2) { stateA with pos := #v[0, 0, 5] } [0x61#8] = some [0x6F#8] := by decide +kernel
/-- P7. -/
theorem test_rinv_end : result (.rinv 2) { stateA with pos := #v[0, 0, 25] } [0x62#8] = some [0x62#8] := by decide +kernel
/-- P9. -/
theorem test_raln : result (.raln 2) { stateA with pos := #v[0, 0, 19] } [] = some [0x01#8] := by decide +kernel
/-- P8. -/
theorem test_raln_not : result (.raln 0) stateA [] = some [0x00#8] := by decide +kernel
/-- T2. -/
theorem test_refl : result .refl stateA [0x67#8] = some [0x6C#8] := by decide +kernel
/-- G18. -/
theorem test_refl_noinst : low .refl State.reset [0x46#8] = some 0x06#8 := by decide +kernel
/-- T3. -/
theorem test_plug : result .plug stateB [0x6B#8] = some [0x6A#8] := by decide +kernel
/-- P13. -/
theorem test_plug_reused_letter : (plugPairs [0x61#8, 0x62#8, 0x20#8, 0x62#8, 0x63#8]).map (fun p => (buildPlug .assign p).toList.take 4) =
    some [1, 2, 1, 3] := by decide +kernel
/-- T1. -/
theorem test_fchain : result .fchain stateA [0x67#8] = some [0x66#8] := by decide +kernel
/-- T1. -/
theorem test_ichain : result .ichain stateA [0x73#8] = some [0x70#8] := by decide +kernel
/-- S5. -/
theorem test_erst : (run .erst { stateA with pos := #v[2, 2, 22], start := #v[1, 5, 3] } []).map (·.pos) = some #v[1, 5, 3] := by decide +kernel
/-- S1, step 21. -/
theorem test_estep_double : (run .estep { stateA with pos := #v[0, 1, 20] } []).map (·.pos) = some #v[1, 2, 21] := by decide +kernel
/-- S4. -/
theorem test_estep_wrap : (run .estep { stateA with pos := #v[25, 25, 25] } []).map (·.pos) = some #v[25, 25, 0] := by decide +kernel
/-- E1. -/
theorem test_estrm : (run (.estrm 1#20) stateA [0x61#8]).map (fun t => (t.dout, t.pos)) = some ([0x64#8], #v[0, 0, 1]) := by decide +kernel
/-- E2. -/
theorem test_enige : result (.enige 17#20) { stateA with pos := #v[0, 0, 5] }
    [0x48#8, 0x65#8, 0x6C#8, 0x6C#8, 0x6F#8, 0x2C#8, 0x20#8, 0x57#8, 0x6F#8, 0x72#8, 0x6C#8, 0x64#8, 0x21#8, 0x20#8, 0x31#8, 0x32#8, 0x33#8] =
    some [0x76#8, 0x6E#8, 0x61#8, 0x63#8, 0x61#8, 0x64#8, 0x6A#8, 0x7A#8, 0x72#8, 0x61#8] := by decide +kernel
/-- E10. -/
theorem test_enige_filter : (run (.enige 7#20) stateA [0x41#8, 0x5B#8, 0x60#8, 0x7B#8, 0xC3#8, 0xA9#8, 0x7A#8]).map (fun t => (t.dout, t.pos)) =
    some ([0x64#8, 0x63#8], #v[0, 0, 2]) := by decide +kernel
/-- E4. -/
theorem test_enigd : result (.enigd 10#20) stateB [0x64#8, 0x63#8, 0x63#8, 0x65#8, 0x66#8, 0x63#8, 0x67#8, 0x6B#8, 0x6E#8, 0x6E#8] =
    some [0x68#8, 0x65#8, 0x6C#8, 0x6C#8, 0x6F#8, 0x77#8, 0x6F#8, 0x72#8, 0x6C#8, 0x64#8] := by decide +kernel
/-- W4. -/
theorem test_pack : (run (.pack true 5#20) State.reset [0x61#8, 0x62#8, 0x63#8, 0x64#8, 0x65#8]).map (·.v) = some [0x64636261#32, 0x00000065#32, 5#32] := by decide +kernel
/-- W5. -/
theorem test_pack_raw : (run (.pack false 13#20) State.reset hello).map (·.v) =
    some [0x6C6C6548#32, 0x2077756F#32, 0x72656874#32, 0x00000065#32] := by decide +kernel
/-- W6. -/
theorem test_unpack_window_low : result (.unpack true) (stateX key0 [0x64636261#32, 0x00000065#32, 5#32]) [] =
    some [0x61#8, 0x62#8, 0x63#8, 0x64#8, 0x65#8] := by decide +kernel
/-- W16. -/
theorem test_unpack_unsigned : low (.unpack true) (stateX key0 [0x64636261#32, 0xFFFFFFFF#32]) [] = some 0x22#8 := by decide +kernel
/-- K1. -/
theorem test_xkey : (run (.xkey 9#20) State.reset [0x53#8, 0x65#8, 0x63#8, 0x72#8, 0x65#8, 0x74#8, 0x4B#8, 0x65#8, 0x79#8]).map (·.xk) = some key9 := by decide +kernel
/-- K2. -/
theorem test_xkey_long : (run (.xkey 19#20) State.reset [0x30#8, 0x31#8, 0x32#8, 0x33#8, 0x34#8, 0x35#8, 0x36#8, 0x37#8, 0x38#8, 0x39#8, 0x61#8, 0x62#8, 0x63#8, 0x64#8, 0x65#8, 0x66#8, 0x58#8, 0x59#8, 0x5A#8]).map (·.xk) =
    some #v[0x33323130#32, 0x37363534#32, 0x62613938#32, 0x66656463#32] := by decide +kernel
/-- X1. -/
theorem test_xenc : (run .xenc (stateX key9 [0x6C6C6548#32, 0x2077756F#32, 0x72656874#32, 0x00000065#32, 0x0000000D#32]) []).map (·.v) =
    some [0x4E98A6BA#32, 0x54E2D25D#32, 0x588B8F0C#32, 0xDD18A9DB#32, 0xA6ADFD64#32] := by decide +kernel
/-- X9. -/
theorem test_xenc_one_word : (run .xenc (stateX key9 [0x00000061#32]) []).map (·.v) = some [0x50A28003#32] := by decide +kernel
/-- X2. -/
theorem test_xdec : (run .xdec (stateX key9 [0x4E98A6BA#32, 0x54E2D25D#32, 0x588B8F0C#32, 0xDD18A9DB#32, 0xA6ADFD64#32]) []).map (·.v) =
    some [0x6C6C6548#32, 0x2077756F#32, 0x72656874#32, 0x00000065#32, 0x0000000D#32] := by decide +kernel
/-- R229. -/
theorem test_xdec_empty : low .xdec (stateX key9 []) [] = some 0x27#8 := by decide +kernel
/-- X13. -/
theorem test_xxenc_length : result (.xxenc true 13#20) (stateX key9 []) hello =
    some [0xBA#8, 0xA6#8, 0x98#8, 0x4E#8, 0x5D#8, 0xD2#8, 0xE2#8, 0x54#8, 0x0C#8, 0x8F#8, 0x8B#8, 0x58#8, 0xDB#8, 0xA9#8, 0x18#8, 0xDD#8, 0x64#8, 0xFD#8, 0xAD#8, 0xA6#8] := by decide +kernel
/-- X15. -/
theorem test_xxenc_raw : result (.xxenc false 13#20) (stateX key9 []) hello =
    some [0x13#8, 0xC9#8, 0xF2#8, 0x7A#8, 0x8A#8, 0xE5#8, 0xF4#8, 0x49#8, 0x2B#8, 0x73#8, 0x45#8, 0xA2#8, 0x2C#8, 0x34#8, 0x62#8, 0xB0#8] := by decide +kernel
/-- X14. -/
theorem test_xxdec_length : result (.xxdec true 20#20) (stateX key9 [])
    [0xBA#8, 0xA6#8, 0x98#8, 0x4E#8, 0x5D#8, 0xD2#8, 0xE2#8, 0x54#8, 0x0C#8, 0x8F#8, 0x8B#8, 0x58#8, 0xDB#8, 0xA9#8, 0x18#8, 0xDD#8, 0x64#8, 0xFD#8, 0xAD#8, 0xA6#8] = some hello := by decide +kernel
/-- R229. -/
theorem test_xxdec_empty : low (.xxdec true 0#20) (stateX key9 []) [] = some 0x27#8 := by decide +kernel
/-- Program 3 line 1. -/
theorem test_cfbcfg : run (.cfbcfg 33#20) State.reset
    [0x08#8, 0x00#8, 0x00#8, 0x00#8, 0x09#8, 0x00#8, 0x00#8, 0x00#8, 0x53#8, 0x65#8, 0x63#8, 0x72#8, 0x65#8, 0x74#8, 0x4B#8, 0x65#8, 0x79#8, 0x30#8, 0x31#8, 0x32#8, 0x33#8, 0x34#8, 0x35#8, 0x36#8, 0x37#8, 0x38#8, 0x39#8, 0x61#8, 0x62#8, 0x63#8, 0x64#8, 0x65#8, 0x66#8] =
    some { stateF 8 with cseq := 1#32 } := by decide +kernel
/-- G14. -/
theorem test_cfbcfg_short_iv : low (.cfbcfg 16#20) State.reset [0x08#8, 0x00#8, 0x00#8, 0x00#8, 0x01#8, 0x00#8, 0x00#8, 0x00#8, 0x6B#8, 0x30#8, 0x31#8, 0x32#8, 0x33#8, 0x34#8, 0x35#8, 0x36#8] = some 0x01#8 := by decide +kernel
/-- C1. -/
theorem test_cfbenc : result (.cfbenc 13#20) (stateF 8) hello =
    some [0xB7#8, 0x1B#8, 0x24#8, 0xCD#8, 0x13#8, 0xB6#8, 0x11#8, 0x27#8, 0xBB#8, 0x01#8, 0xD9#8, 0xBB#8, 0xF1#8] := by decide +kernel
/-- C7. -/
theorem test_cfbenc_bad_block_size : low (.cfbenc 1#20) (stateF 9) [0x78#8] = some 0xC3#8 := by decide +kernel
/-- C2. -/
theorem test_cfbdec : result (.cfbdec 13#20) (stateF 8)
    [0xB7#8, 0x1B#8, 0x24#8, 0xCD#8, 0x13#8, 0xB6#8, 0x11#8, 0x27#8, 0xBB#8, 0x01#8, 0xD9#8, 0xBB#8, 0xF1#8] = some hello := by decide +kernel
/-- C10. -/
theorem test_cfbdec_flipped_bit : result (.cfbdec 13#20) (stateF 8)
    [0xB6#8, 0x1B#8, 0x24#8, 0xCD#8, 0x13#8, 0xB6#8, 0x11#8, 0x27#8, 0xBB#8, 0x01#8, 0xD9#8, 0xBB#8, 0xF1#8] =
    some [0x49#8, 0x65#8, 0x6C#8, 0x6C#8, 0x6F#8, 0x75#8, 0x77#8, 0x20#8, 0xCE#8, 0x6C#8, 0x2F#8, 0x70#8, 0xF2#8] := by decide +kernel
/-- G16. -/
theorem test_fatal_blocks : run .nop { stateA with status := ⟨4#4, true, false, false, true⟩ } [] =
    some { stateA with status := ⟨4#4, true, false, false, true⟩ } := by decide +kernel
/-- G19. -/
theorem test_reset_clears : (nextOf (step { stateA with host := [.reset], cseq := 2#32 })).map (fun t => (t.status.word, t.cseq)) = some (0#32, 0#32) := by decide +kernel
/-- R82. -/
theorem test_assembler_length : (pseudoLdv [1#32, 2#32]).map (·.word) = some 0x30000008#32 := by decide +kernel

theorem test_witness_DecodeFollowsOpcodeMap :
    (∃ i, decode 0x13200000#32 = .ok i) ∧ (∃ e, decode 0x13300000#32 = .error e) ∧
    ∃ r ∈ opcodeMap, r.selects 0x13200000#32 = true :=
  ⟨⟨.raln 2, by decide +kernel⟩, ⟨.slot, by decide +kernel⟩, ⟨Instr.row (.raln 0), by decide +kernel⟩⟩

theorem test_witness_OpcodeRowsNeverOverlap :
    Instr.row .nop ∈ opcodeMap ∧ (Instr.row .nop).selects 0#32 = true := by decide +kernel

theorem test_witness_AssembledLinesAreTransactions :
    assemble .estrm [.hexString [0x61#8]] = some ⟨0x22000001#32, [0x61#8]⟩ := by decide +kernel

theorem test_witness_StepRunsDecodedInstruction :
    (withAction stateA (.command ⟨0x21000000#32, []⟩)).host = .command ⟨0x21000000#32, []⟩ :: [] ∧
    (withAction stateA (.command ⟨0x21000000#32, []⟩)).status.fatal = false ∧ decode 0x21000000#32 = .ok .estep := by
  decide +kernel

theorem test_witness_FatalOrIdleBlockKeepsState :
    (withAction stateFatal (.command ⟨0#32, []⟩)).host = .command ⟨0#32, []⟩ :: [] ∧
    (withAction stateFatal (.command ⟨0#32, []⟩)).status.fatal = true ∧ State.reset.host = [] := by decide +kernel

theorem test_witness_IllegalWordEndsSoftly :
    (withAction stateA (.command ⟨0x11200002#32, [0x67#8, 0x67#8]⟩)).status.fatal = false ∧
    Command.wf ⟨0x11200002#32, [0x67#8, 0x67#8]⟩ = true ∧ ∀ r ∈ opcodeMap, r.selects 0x11200002#32 = false := by
  decide +kernel

theorem test_witness_WrongPayloadLengthStops :
    stateA.status.fatal = false ∧ stateA.din.length ≠ Instr.payloadLen .refl ∧
    stateA.din.length ≠ Instr.payloadLen (.pack false 0xFFFFF#20) := by decide +kernel

theorem test_witness_ResetGivesStatedValues :
    (withAction stateFatal .reset).host = .reset :: [] ∧
    (withAction stateA (.commandThenReset ⟨0#32, []⟩)).host = .commandThenReset ⟨0#32, []⟩ :: [] := by decide +kernel

theorem test_witness_ResetIsTheOnlyWayBack :
    step stateFatal = .next (stateFatal.withHost []).takeReset ∧
    stateFatal.status.fatal = true ∧ (stateFatal.withHost []).takeReset.status.fatal = false ∧
    stateFatal.status.ev = true ∧ (stateFatal.withHost []).takeReset.status.ev = false ∧
    stateFatal.status.xv = true ∧ (stateFatal.withHost []).takeReset.status.xv = false ∧
    stateFatal.status.cv = true ∧ (stateFatal.withHost []).takeReset.status.cv = false ∧
    stateFatal.cseq ≠ 0#32 ∧ stateFatal.cseq ≠ 0xFFFFFFFF#32 ∧ (stateFatal.withHost []).takeReset.cseq = 0#32 :=
  ⟨rfl, by decide +kernel⟩

theorem test_witness_CommandCountAdvances :
    step (withAction { stateA with cseq := 0xFFFFFFFF#32 } (.command ⟨0#32, []⟩)) =
      .next { stateA with cseq := 0#32 } ∧
    step (withAction stateFatal (.command ⟨0#32, []⟩)) = .next { stateFatal with host := [] } :=
  ⟨rfl, rfl⟩

theorem test_witness_RetireWritesStatus : ([] : List Byte).length < 2 ^ 32 ∧ hello.length < 2 ^ 32 := by decide +kernel

theorem test_witness_ErrorCodesAndRaisers :
    exec .nop stateA = .next (normalEnd stateA []) ∧ exec .xenc stateA = .next (softEnd stateA 6#4) ∧
    decode 0x01000000#32 = .error .opcode ∧
    step (withAction stateA (.command ⟨0x01000000#32, []⟩)) = .next (softEnd stateA 5#4) :=
  ⟨rfl, rfl, rfl, rfl⟩

theorem test_witness_MissingInstanceIsRefused :
    (Instr.needs .ichain = some .enigma ∧ Status.valid State.reset.status .enigma = false ∧
      State.ReadyFor { State.reset with din := [0x61#8] } .ichain) ∧
    (Instr.needs .xenc = some .xxtea ∧ Status.valid stateA.status .xxtea = false ∧ stateA.ReadyFor .xenc) ∧
    (Instr.needs (.cfbdec 0#20) = some .cfb ∧ Status.valid stateA.status .cfb = false ∧ stateA.ReadyFor (.cfbdec 0#20)) :=
  ⟨⟨rfl, rfl, rfl, rfl⟩, ⟨rfl, rfl, rfl, rfl⟩, ⟨rfl, rfl, rfl, rfl⟩⟩

theorem test_witness_ErrorsArePrecise :
    exec .xenc stateA = .next (softEnd stateA 6#4) ∧ (softEnd stateA 6#4).status.err ≠ 0#4 ∧
    exec .refl { stateA with din := [0x46#8] } = .next (fatalEnd stateA 4#4) ∧ (fatalEnd stateA 4#4).status.err ≠ 0#4 :=
  ⟨rfl, by decide +kernel, rfl, by decide +kernel⟩

theorem test_witness_ValidFlagsFollowConstruction :
    State.reset.status.fatal = false ∧ nextOf (exec (.xkey 0#20) State.reset) ≠ none ∧
    nextOf (exec (.encfg 0#20) State.reset) ≠ none ∧ nextOf (exec (.cfbcfg 0#20) State.reset) ≠ none := by
  decide +kernel

theorem test_witness_OnlyListedCommandsWrite :
    nextOf (exec .nop stateA) ≠ none ∧ nextOf (exec .estep stateA) ≠ none ∧
    nextOf (exec (.unpack true) stateA) ≠ none := by decide +kernel

theorem test_witness_ResultsDependOnReadSetOnly :
    stateC.status.fatal = false ∧ sameReads (.enige 0#20) stateC { stateC with pos := #v[0, 0, 25] } ∧
    nextOf (exec (.enige 0#20) stateC) ≠ none ∧
    nextOf (exec (.enige 0#20) { stateC with pos := #v[0, 0, 25] }) ≠ none :=
  ⟨rfl, ⟨rfl, rfl, rfl, rfl, rfl, rfl, rfl, rfl, rfl⟩, by decide +kernel, by decide +kernel⟩

theorem test_witness_StepKeepsInvariant :
    stateA.Inv ∧ step (withAction stateA (.command ⟨0#32, []⟩)) = .next (normalEnd stateA []) ∧
    (withAction stateA (.command ⟨0#32, []⟩)).Inv ∧ (stateF 8).Inv := by
  refine ⟨?_, rfl, ?_, ?_⟩ <;> constructor <;> decide +kernel

theorem test_witness_NopOnlyCounts : stateA.ReadyFor .nop := ⟨rfl, rfl⟩

/-- For `RotorLookupResults`, `ReflectorAndPlugboardResults` and `ChainResults`. -/
theorem test_witness_letter_commands :
    letterReady { stateA with din := [0x61#8] } 0 ∧ letterReady { stateA with din := [0x7A#8] } 25 ∧
    ∀ k : Slot, stateA.rw[k].toList.Nodup :=
  ⟨⟨rfl, rfl, rfl⟩, ⟨rfl, rfl, rfl⟩, by decide +kernel⟩

theorem test_witness_AlignmentResult :
    stateC.ReadyFor (.raln 2) ∧ stateC.status.ev = true ∧ alignedAt stateC 0 ∧ alignedAt stateC 2 ∧
    ¬ alignedAt stateA 0 ∧ alignedAt { stateA with notch := #v[25, 6, 7], pos := #v[18, 25, 0] } 0 ∧
    alignedAt { stateA with notch := #v[25, 6, 7], pos := #v[18, 25, 0] } 1 ∧
    alignedAt { stateA with notch := #v[25, 6, 7], pos := #v[18, 25, 0] } 2 := by
  refine ⟨⟨rfl, rfl⟩, rfl, ?_⟩; unfold alignedAt; decide +kernel

theorem test_witness_NonLetterOperandIsFatal :
    stateA.status.fatal = false ∧ stateA.status.ev = true ∧ ¬ (0x61#8 ≤ 0x60#8 ∧ 0x60#8 ≤ 0x7A#8) ∧
    ¬ (0x61#8 ≤ 0x7B#8 ∧ 0x7B#8 ≤ 0x7A#8) ∧ { stateA with din := [0x7B#8] }.din = [0x7B#8] := by decide +kernel

theorem test_witness_RotorsAndChainsInvert :
    stateA.Inv ∧ stateA.status.ev = true ∧ stateA.plugOverlap = .indexExchange := by
  refine ⟨?_, rfl, rfl⟩; constructor <;> decide +kernel

theorem test_witness_EncfgConstructsOrRefuses :
    State.ReadyFor { State.reset with din := payloadA } (.encfg 110#20) ∧
    EncfgPayload reflA wire0 wire1 wire2 #v[8, 8, 0] #v[0, 0, 0] [] payloadA ∧
    EncfgPayload reflA wire0 wire1 wire2 #v[8, 8, 0] #v[0, 0, 0] [(0, 25)] (payloadA ++ [0x61#8, 0x7A#8, 0x20#8]) ∧
    State.ReadyFor { State.reset with din := payloadA.take 109 } (.encfg 109#20) ∧
    ¬ ∃ r w0 w1 w2 n p pairs, EncfgPayload r w0 w1 w2 n p pairs (payloadA.take 109) := by
  refine ⟨⟨rfl, rfl⟩, ⟨by decide +kernel, [], by decide +kernel⟩,
    ⟨by decide +kernel, [0x61#8, 0x7A#8, 0x20#8], by decide +kernel⟩, ⟨rfl, by decide +kernel⟩, ?_⟩
  rintro ⟨r, w0, w1, w2, n, p, pairs, _, g, _, h⟩
  have := congrArg List.length h
  have h109 : (payloadA.take 109).length = 109 := by decide +kernel
  simp only [h109, List.length_append, List.length_map, Vector.length_toList, List.length_cons, List.length_nil] at this
  omega

theorem test_witness_DisjointPairsAreSwapped :
    (([(0, 25), (3, 4)] : List (Letter × Letter)).flatMap fun q => [q.1, q.2]).Nodup := by decide +kernel

theorem test_witness_StepTransition :
    stateC.ReadyFor .estep ∧ stateC.status.ev = true ∧ (alignedAt stateC 0 ∧ alignedAt stateC 1 ∧ alignedAt stateC 2) ∧
    stateA.ReadyFor .estep ∧ ¬ (alignedAt stateA 0 ∨ alignedAt stateA 1) ∧ ¬ (alignedAt stateA 1 ∨ alignedAt stateA 2) := by
  refine ⟨⟨rfl, rfl⟩, rfl, ?_, ⟨rfl, rfl⟩, ?_⟩ <;> unfold alignedAt <;> decide +kernel

theorem test_witness_ErstLoadsStart : stateC.ReadyFor .erst ∧ stateC.status.ev = true := ⟨⟨rfl, rfl⟩, rfl⟩

/-- For `EstrmResult`, `EnigmaCallResults` and `FastRotorCountsLetters`. -/
theorem test_witness_enigma_streams :
    State.ReadyFor { stateA with din := hello } (.estrm 13#20) ∧ stateA.ReadyFor (.estrm 0#20) ∧
    ({ stateA with din := hello } : State).din.length = (13#20 : BitVec 20).toNat ∧ stateA.status.ev = true ∧
    wiringsDistinct stateA ∧ (foldLetters hello)[0]? = some (byteOfLetter 7) ∧
    (foldLetters [0x40#8, 0x41#8, 0x5A#8, 0x5B#8, 0x60#8, 0x61#8, 0x7A#8, 0x7B#8])[1]? = some (byteOfLetter 25) :=
  ⟨⟨rfl, rfl⟩, ⟨rfl, rfl⟩, rfl, rfl, by unfold wiringsDistinct; decide +kernel, by decide +kernel, by decide +kernel⟩

theorem test_witness_SplitMessageContinues :
    stateA.status.fatal = false ∧ stateA.status.ev = true ∧
    (List.replicate (2 ^ 20 - 1) (0x61#8 : Byte)).length + ([] : List Byte).length < 2 ^ 20 :=
  ⟨rfl, rfl, by rw [List.length_replicate, List.length_nil]; omega⟩

theorem test_witness_EnigmaIsSelfInverse :
    stateB.status.fatal = false ∧ stateB.status.ev = true ∧
    (List.replicate (2 ^ 20 - 1) (0x61#8 : Byte)).length < 2 ^ 20 ∧ (∀ k : Slot, stateB.rw[k].toList.Nodup) ∧
    (∀ x : Letter, stateB.ref[stateB.ref[x]] = x) ∧ (∀ x : Letter, stateB.plg[stateB.plg[x]] = x) :=
  ⟨rfl, rfl, by rw [List.length_replicate]; omega, by decide +kernel, by decide +kernel, by decide +kernel⟩

theorem test_witness_PackResult :
    State.ReadyFor { State.reset with din := hello } (.pack true 13#20) ∧ State.reset.ReadyFor (.pack false 0#20) :=
  ⟨⟨rfl, rfl⟩, ⟨rfl, rfl⟩⟩

theorem test_witness_UnpackResult :
    State.reset.v = [] ∧ (stateX key0 [0x61#32, 1#32]).v = [0x61#32] ++ [1#32] ∧
    inWindow 1 1#32 ∧ inWindow 1 4#32 ∧ inWindow 0 0#32 ∧ ¬ inWindow 1 0#32 ∧ ¬ inWindow 1 5#32 ∧
    ¬ inWindow 0 1#32 ∧ ¬ inWindow 1 0xFFFFFFFF#32 ∧ (stateX key0 []).status.fatal = false ∧ (stateX key0 []).din = [] := by
  unfold inWindow; decide +kernel

theorem test_witness_PackerRoundTrips :
    (List.replicate 1048575 (0x61#8 : Byte)).length ≤ 1048575 ∧ wordsToBytes [0x61#32] false = some [0x61#8, 0#8, 0#8, 0#8] :=
  ⟨by rw [List.length_replicate], by decide +kernel⟩

theorem test_witness_XkeyResult :
    State.reset.ReadyFor (.xkey 0#20) ∧ State.ReadyFor { State.reset with din := hello ++ hello } (.xkey 26#20) :=
  ⟨⟨rfl, rfl⟩, ⟨rfl, rfl⟩⟩

/-- For `XxteaIsUpdateSequence`, `XxteaTransformsInvert`, `WordArrayTransforms` and `EmptyArrayIsRefused`. -/
theorem test_witness_transforms :
    ([0#32] : List Word) ≠ [] ∧ 2 ≤ ([0#32, 1#32] : List Word).length ∧ (stateX key0 [0#32]).v ≠ [] ∧
    (stateX key0 [0#32]).status.xv = true ∧ (stateX key0 [0#32]).status.fatal = false ∧ (stateX key0 [0#32]).din = [] ∧
    (stateX key0 []).v = [] := by decide +kernel

theorem test_witness_XxencResult :
    State.ReadyFor { stateX key0 [] with din := [0x61#8] } (.xxenc false 1#20) ∧ [0x61#8] ≠ [] ∧
    (stateX key0 []).ReadyFor (.xxenc true 0#20) ∧ (stateX key0 []).status.xv = true :=
  ⟨⟨rfl, rfl⟩, by decide +kernel, ⟨rfl, rfl⟩, rfl⟩

/-- The ciphertexts whose inverse transform ends in the length words 1, 4 (in the window), 0 and 5 (outside). -/
theorem test_witness_XxdecResult :
    (IsPacked [0x96#8, 0x1D#8, 0xE0#8, 0x61#8, 0x19#8, 0xEC#8, 0x65#8, 0xC5#8] [0x61E01D96#32, 0xC565EC19#32] ∧
      inverseUpdates key0 [0x61E01D96#32, 0xC565EC19#32] = [0x61#32] ++ [1#32]) ∧
    (IsPacked [0x0B#8, 0xE4#8, 0x23#8, 0xF4#8, 0xDD#8, 0x67#8, 0xA7#8, 0x8D#8] [0xF423E40B#32, 0x8DA767DD#32] ∧
      inverseUpdates key0 [0xF423E40B#32, 0x8DA767DD#32] = [0x61#32] ++ [4#32]) ∧
    (IsPacked [0xEA#8, 0xD7#8, 0x2D#8, 0x10#8, 0xF3#8, 0xEC#8, 0x4A#8, 0x18#8] [0x102DD7EA#32, 0x184AECF3#32] ∧
      inverseUpdates key0 [0x102DD7EA#32, 0x184AECF3#32] = [0x61#32] ++ [0#32]) ∧
    (IsPacked [0xF9#8, 0xAA#8, 0xB1#8, 0x06#8, 0x99#8, 0xBE#8, 0xF3#8, 0x05#8] [0x06B1AAF9#32, 0x05F3BE99#32] ∧
      inverseUpdates key0 [0x06B1AAF9#32, 0x05F3BE99#32] = [0x61#32] ++ [5#32]) ∧
    (inWindow 1 1#32 ∧ inWindow 1 4#32 ∧ ¬ inWindow 1 0#32 ∧ ¬ inWindow 1 5#32) ∧
    State.ReadyFor { stateX key0 [] with din := [0x96#8, 0x1D#8, 0xE0#8, 0x61#8, 0x19#8, 0xEC#8, 0x65#8, 0xC5#8] } (.xxdec true 8#20) := by
  unfold IsPacked
  refine ⟨by decide +kernel, by decide +kernel, by decide +kernel, by decide +kernel, ?_, rfl, rfl⟩
  unfold inWindow; decide +kernel

theorem test_witness_XxteaCommandRoundTrips :
    1 ≤ (List.replicate 1048568 (0x61#8 : Byte)).length ∧ (List.replicate 1048568 (0x61#8 : Byte)).length + 8 ≤ 2 ^ 20 ∧
    1 ≤ [0x61#8].length ∧ 5 ≤ (List.replicate 1048572 (0x61#8 : Byte)).length ∧
    (List.replicate 1048572 (0x61#8 : Byte)).length + 4 ≤ 2 ^ 20 := by
  simp only [List.length_replicate, List.length_cons]; omega

theorem test_witness_CfbcfgConstructsOrRefuses :
    State.ReadyFor { State.reset with din := bytesLE 4 8 ++ bytesLE 4 0 ++ [] ++ hello } (.cfbcfg 21#20) ∧
    CfbcfgPayload 8 [] hello (bytesLE 4 8 ++ bytesLE 4 0 ++ [] ++ hello) ∧
    CfbcfgPayload 1024 hello (List.replicate 1024 0#8)
      (bytesLE 4 1024 ++ bytesLE 4 hello.length ++ hello ++ List.replicate 1024 0#8) ∧
    (State.reset.ReadyFor (.cfbcfg 0#20) ∧ ¬ ∃ bs key iv, CfbcfgPayload bs key iv State.reset.din) ∧
    ¬ ∃ bs key iv, CfbcfgPayload bs key iv (bytesLE 4 7 ++ bytesLE 4 0 ++ hello) := by
  refine ⟨⟨rfl, rfl⟩, ⟨by decide, by decide, by decide, rfl⟩,
    ⟨by decide, by decide, by rw [List.length_replicate], rfl⟩, ⟨⟨rfl, rfl⟩, ?_⟩, ?_⟩
  · rintro ⟨bs, key, iv, _, _, _, h⟩
    simp [State.reset, bytesLE] at h
  · rintro ⟨bs, key, iv, h8, h9, _, h⟩
    simp [bytesLE] at h
    have h0 := congrArg BitVec.toNat h.1
    have h1 := congrArg BitVec.toNat h.2.1
    simp at h0 h1
    omega

/-- For `CfbChainingResults` and `BadBlockSizeIsFatal`. -/
theorem test_witness_cfb_calls :
    CfbReady (stateF 8) ∧ (stateF 8).bs % 4 = 0 ∧ (stateF 8).din.length = (0#20 : BitVec 20).toNat ∧
    CfbReady { stateF 8 with din := hello } ∧ ({ stateF 8 with din := hello } : State).din.length = (13#20 : BitVec 20).toNat ∧
    CfbReady (stateF 9) ∧ (stateF 9).bs % 4 ≠ 0 ∧ (stateF 9).din = [] ∧ ({ stateF 9 with din := hello } : State).din ≠ [] := by
  unfold CfbReady; decide +kernel

theorem test_witness_CfbRoundTrip :
    CfbReady (stateF 8) ∧ (stateF 8).bs % 4 = 0 ∧ (List.replicate 1048575 (0x61#8 : Byte)).length < 2 ^ 20 :=
  ⟨by unfold CfbReady; decide +kernel, rfl, by rw [List.length_replicate]; omega⟩

end Sys2Proof.Tests
end

section
/-! SUPPORT. What the frame of a command and the presenting of one do in the cases the laws leave open: a payload of
another length, an accepted command, a normal end. -/

namespace Sys2Proof.Machine

/-- A payload that is not `LEN` bytes stops the frame of every command (log 4). -/
theorem runCommand_wrongLength {len : Nat} {unit : Option CipherUnit} {s : State}
    {body : State → List Byte → CommandEnd} (hf : s.status.fatal = false) (hl : s.din.length ≠ len) :
    runCommand len unit s body = .fault .payloadLength := by
  simp [runCommand, hf, hl]

/-- With a command waiting, a step presents it (R8). -/
theorem step_command {s : State} {c : Command} {rest : List HostAction} (h : s.host = .command c :: rest) :
    step s = presentCommand c (s.withHost rest) := by
  simp [step, h, meetAction]

/-- An accepted legal word is executed with its payload as `DIN` (R33, R232). -/
theorem presentCommand_accepted {s : State} {c : Command} {i : Instr} (hf : s.status.fatal = false)
    (hd : decode c.word = .ok i) : presentCommand c s = exec i (s.accept c.payload) := by
  simp [presentCommand, hf, hd]

/-- `retire` leaves the state written out from R221. -/
theorem retire_eq_normalEnd (s : State) (out : List Byte) : s.retire out = normalEnd s out := by
  simp [State.retire, State.endCommand, normalEnd]

/-- A ready instruction whose pseudocode comes to its end retires with what the pseudocode wrote and returned. -/
theorem exec_retires {i : Instr} {s t : State} {out : List Byte} (h : s.ReadyFor i)
    (hu : s.hasInstance i.needs = true) (hb : commandBody i s s.din = .ok (t, out)) :
    exec i s = .next (normalEnd t out) := by
  rw [exec_ready h hu, hb, State.finish_ok, retire_eq_normalEnd]

end Sys2Proof.Machine
end

section
/-! SUPPORT. The Enigma functions of the model are the terms the statements write out from the rules: the letter
filter (R12, R135), the stepping (R131), the lookups (R101, R102), the path of a letter (R134). -/

namespace Sys2Proof.Machine

/-- The letter codes of the letters of a payload, in order (R135). -/
def streamLetters (d : List Byte) : List Letter := d.filterMap streamLetter

theorem streamLetters_cons_none {b : Byte} (h : streamLetter b = none) (d : List Byte) :
    streamLetters (b :: d) = streamLetters d := by
  simp [streamLetters, h]

theorem streamLetters_cons_some {b : Byte} {x : Letter} (h : streamLetter b = some x) (d : List Byte) :
    streamLetters (b :: d) = x :: streamLetters d := by
  simp [streamLetters, h]

/-- The filter of the stream, byte by byte, is the one R12 writes out. -/
theorem map_byteOfLetter_streamLetter (b : Byte) :
    (streamLetter b).map byteOfLetter =
      if 0x41 ≤ b.toNat ∧ b.toNat ≤ 0x5A then some (b + 0x20#8)
      else if 0x61 ≤ b.toNat ∧ b.toNat ≤ 0x7A then some b else none := by
  revert b; decide

/-- The folded message is the bytes of the stream's letters (R12, R135). -/
theorem foldLetters_eq_map (d : List Byte) : foldLetters d = (streamLetters d).map byteOfLetter := by
  simp only [foldLetters, streamLetters, List.map_filterMap, map_byteOfLetter_streamLetter]

theorem foldLetters_length (d : List Byte) : (foldLetters d).length = (streamLetters d).length := by
  simp [foldLetters_eq_map]

/-- Different letters have different bytes (R12). -/
theorem byteOfLetter_injective : Function.Injective byteOfLetter := by
  intro x y h
  have hcode : letterCode (letterByte x) = letterCode (letterByte y) := congrArg letterCode h
  simpa using hcode

theorem aligned_iff (s : State) (k : Slot) : s.aligned k = true ↔ alignedAt s k := by
  simp [State.aligned, alignedAt, Config.alignOfs]

/-- The model's `step()` is R131 written out. -/
theorem stepRotors_eq_afterStep (s : State) : s.stepRotors = afterStep s := by
  simp only [State.stepRotors, afterStep, Bool.or_eq_true, aligned_iff]
  rfl

theorem iterate_stepRotors (s : State) (j : Nat) : State.stepRotors^[j] s = afterSteps s j := by
  rw [afterSteps, funext stepRotors_eq_afterStep]

/-- Stepping leaves the wirings as they are (R131). -/
theorem afterSteps_rw (s : State) (j : Nat) : (afterSteps s j).rw = s.rw := by
  induction j with
  | zero => rfl
  | succ j ih => rw [afterSteps, Function.iterate_succ_apply']; exact ih

theorem wiringsDistinct_afterSteps {s : State} (h : wiringsDistinct s) (j : Nat) :
    wiringsDistinct (afterSteps s j) := by
  simpa only [wiringsDistinct, afterSteps_rw] using h

/-- A table with no repeats has no letter at two indices. -/
theorem table_injective {t : Table} (h : t.toList.Nodup) : Function.Injective fun i : Letter => t[i] := by
  intro i j hij
  have hidx : indexIn t t[i] = indexIn t t[j] := congrArg (indexIn t) hij
  rwa [indexIn_getElem h, indexIn_getElem h] at hidx

/-- A table with no repeats has every letter, since it has 26 entries (R110). -/
theorem exists_index {t : Table} (h : t.toList.Nodup) (x : Letter) : ∃ i : Letter, t[i] = x :=
  Finite.surjective_of_injective (table_injective h) x

/-- The inverse lookup takes the unique index of R102, where there is one. -/
theorem rotInv_isInverse {s : State} {k : Slot} (h : s.rw[k].toList.Nodup) (x : Letter) :
    IsInverseOf s k x (s.rotInv k x) := by
  obtain ⟨i, rfl⟩ := exists_index h x
  refine ⟨i, rfl, fun j hj => table_injective h hj, ?_⟩
  rw [State.rotInv, indexIn_getElem h]
  rfl

/-- The substitution of the model is the path of R134. -/
theorem substitute_isSubstitute {s : State} (h : wiringsDistinct s) (x : Letter) :
    IsSubstituteOf s x (s.substitute x) :=
  ⟨_, _, _, rotInv_isInverse (h 0) _, rotInv_isInverse (h 1) _, rotInv_isInverse (h 2) _, rfl⟩

end Sys2Proof.Machine
end

section
/-! SUPPORT. The Enigma stream as a whole: where it leaves the positions and what it returns (R134, R135). -/

namespace Sys2Proof.Machine

theorem enigmaStream_cons_none {b : Byte} (h : streamLetter b = none) (s : State) (d : List Byte) :
    enigmaStream s (b :: d) = enigmaStream s d := by
  simp [enigmaStream, h]

theorem enigmaStream_cons_some {b : Byte} {x : Letter} (h : streamLetter b = some x) (s : State) (d : List Byte) :
    enigmaStream s (b :: d) =
      ((enigmaStream s.stepRotors d).1,
        letterByte (s.stepRotors.substitute x) :: (enigmaStream s.stepRotors d).2) := by
  simp [enigmaStream, h]

/-- The stream steps the rotors once for each letter (R135). -/
theorem enigmaStream_state (s : State) (d : List Byte) :
    (enigmaStream s d).1 = afterSteps s (foldLetters d).length := by
  rw [foldLetters_length, ← iterate_stepRotors]
  induction d generalizing s with
  | nil => rfl
  | cons b d ih =>
    cases hb : streamLetter b with
    | none => rw [enigmaStream_cons_none hb, streamLetters_cons_none hb, ih]
    | some x =>
      rw [enigmaStream_cons_some hb, streamLetters_cons_some hb, List.length_cons, Function.iterate_succ_apply]
      exact ih s.stepRotors

/-- The stream returns the `j`-th letter substituted at the positions `j + 1` steps on (R134, R135). -/
theorem enigmaStream_out (s : State) (d : List Byte) :
    (enigmaStream s d).2 =
      (streamLetters d).mapIdx fun j x => letterByte ((afterSteps s (j + 1)).substitute x) := by
  simp only [← iterate_stepRotors]
  induction d generalizing s with
  | nil => rfl
  | cons b d ih =>
    cases hb : streamLetter b with
    | none => rw [enigmaStream_cons_none hb, streamLetters_cons_none hb, ih]
    | some x =>
      rw [enigmaStream_cons_some hb, streamLetters_cons_some hb, List.mapIdx_cons]
      exact congrArg _ (ih s.stepRotors)

theorem enigmaStream_out_length (s : State) (d : List Byte) :
    (enigmaStream s d).2.length = (foldLetters d).length := by
  rw [enigmaStream_out, List.length_mapIdx, foldLetters_length]

/-- Where the wirings have no repeats, the result is the stream written out from R134 and R135. -/
theorem enigmaStream_isStream {s : State} (h : wiringsDistinct s) (d : List Byte) :
    IsStreamOf s d (enigmaStream s d).2 := by
  refine ⟨enigmaStream_out_length s d, fun j x hx => ?_⟩
  have hletter : (streamLetters d)[j]? = some x := by
    rw [foldLetters_eq_map, List.getElem?_map] at hx
    exact Option.map_injective byteOfLetter_injective hx
  refine ⟨_, substitute_isSubstitute (wiringsDistinct_afterSteps h (j + 1)) x, ?_⟩
  rw [enigmaStream_out, List.getElem?_mapIdx, hletter]
  rfl

end Sys2Proof.Machine
end

section
/-! The statements of 00_scope. -/

namespace Sys2Proof.Machine

/-- Settles O6: the step presents the command, and an accepted legal word is executed. -/
theorem stepRunsDecodedInstruction : Obligations.StepRunsDecodedInstruction := by
  unfold Obligations.StepRunsDecodedInstruction
  intro s c rest i hhost hfatal hdecode
  have hfatal' : (s.withHost rest).status.fatal = false := hfatal
  rw [step_command hhost, presentCommand_accepted hfatal' hdecode]
  rfl

/-- Settles O9: every instruction is the frame `runCommand`, which checks the length of its payload. -/
theorem wrongPayloadLengthStops : Obligations.WrongPayloadLengthStops := by
  unfold Obligations.WrongPayloadLengthStops
  intro s i hfatal hlen
  rw [exec_eq_runCommand]
  exact runCommand_wrongLength hfatal hlen

/-- Settles O38: the command retires with the stream's result, and the stream writes the positions only. -/
theorem estrmResult : Obligations.EstrmResult := by
  unfold Obligations.EstrmResult
  intro s len hready hev
  have hpos : (enigmaStream s s.din).1 = { s with pos := (afterSteps s (foldLetters s.din).length).pos } := by
    rw [enigmaStream_frame, enigmaStream_state]
  refine ⟨(enigmaStream s s.din).2, enigmaStream_out_length s s.din, fun h => enigmaStream_isStream h s.din, ?_⟩
  rw [← hpos]
  exact exec_retires hready hev rfl

end Sys2Proof.Machine
end

section
/-! SUPPORT. What a command can write, said once (10_state R37): the pseudocode of an instruction that comes to its end
wrote nothing, or the registers its row lists; an accepted command ends with an error or with that. -/

namespace Sys2Proof.Machine

/-- The commands that write no register (R37). -/
def writesNothing : Instr → Bool
  | .nop | .rfwd _ | .rinv _ | .raln _ | .refl | .plug | .fchain | .ichain => true
  | .unpack _ | .xxenc _ _ | .xxdec _ _ | .cfbenc _ | .cfbdec _ => true
  | _ => false

/-- The commands that write `POS` and no other register (R37). -/
def movesRotors : Instr → Bool
  | .erst | .estep | .estrm _ | .enige _ | .enigd _ => true
  | _ => false

/-- The commands that transform the word array in place (R181, R182). -/
def transformsArray : Instr → Bool
  | .xenc | .xdec => true
  | _ => false

theorem movesRotors_iff (i : Instr) :
    movesRotors i = true ↔ i = .erst ∨ i = .estep ∨ ∃ n, i = .estrm n ∨ i = .enige n ∨ i = .enigd n := by
  cases i <;> simp [movesRotors]

theorem transformsArray_iff (i : Instr) : transformsArray i = true ↔ i = .xenc ∨ i = .xdec := by
  cases i <;> simp [transformsArray]

/-- `BodyWrites s din i t`: the pseudocode of `i`, begun in `s` with payload `din`, can come to its end having
written `t`. -/
inductive BodyWrites (s : State) (din : List Byte) : Instr → State → Prop
  | nothing {i : Instr} (h : writesNothing i = true) : BodyWrites s din i s
  | positions {i : Instr} (h : movesRotors i = true) (p : Vector Letter 3) : BodyWrites s din i { s with pos := p }
  | enigma {n : BitVec 20} {r : EnigmaRecord} (h : enigmaRecord din = some r) :
      BodyWrites s din (.encfg n) (s.configureEnigma r)
  | pack (il : Bool) (n : BitVec 20) : BodyWrites s din (.pack il n) { s with v := bytesToWords din il }
  | key (n : BitVec 20) :
      BodyWrites s din (.xkey n) { s with xk := deriveKey din, status := { s.status with xv := true } }
  | transform {i : Instr} {v : List Word} (h : transformsArray i = true) (hv : v.length = s.v.length) :
      BodyWrites s din i { s with v := v }
  | cfb {n : BitVec 20} {r : CfbRecord} (h : cfbRecord din = some r) : BodyWrites s din (.cfbcfg n) (s.configureCfb r)

/-- A lookup that comes to its end wrote nothing and returns one byte (R115 to R121). -/
theorem letterBody_ok {f : State → Letter → Letter} {s t : State} {din out : List Byte}
    (h : letterBody f s din = .ok (t, out)) : t = s ∧ out.length = 1 := by
  unfold letterBody at h
  split at h <;> cases h
  exact ⟨rfl, rfl⟩

/-- What the pseudocode of each instruction writes when it comes to its end. -/
theorem commandBody_writes {i : Instr} {s t : State} {din out : List Byte}
    (h : commandBody i s din = .ok (t, out)) : BodyWrites s din i t := by
  cases i with
  | nop | raln => cases h; exact .nothing rfl
  | rfwd | rinv | refl | plug | fchain | ichain =>
    rw [commandBody] at h
    obtain ⟨rfl, -⟩ := letterBody_ok h
    exact .nothing rfl
  | unpack | xxenc | cfbenc | cfbdec =>
    simp only [commandBody] at h
    split at h <;> cases h
    exact .nothing rfl
  | xxdec =>
    simp only [commandBody] at h
    split at h
    · cases h
    · split at h <;> cases h
      exact .nothing rfl
  | encfg =>
    simp only [commandBody] at h
    split at h <;> cases h
    exact .enigma ‹_›
  | cfbcfg =>
    simp only [commandBody] at h
    split at h <;> cases h
    exact .cfb ‹_›
  | erst => cases h; exact .positions rfl _
  | estep => cases h; exact .positions rfl _
  | estrm =>
    obtain rfl : (enigmaStream s din).1 = t := by injection h with h; exact congrArg Prod.fst h
    rw [enigmaStream_frame]
    exact .positions rfl _
  | enige | enigd =>
    obtain rfl : (enigmaStream s.loadStart din).1 = t := by injection h with h; exact congrArg Prod.fst h
    rw [enigmaStream_frame]
    exact .positions rfl _
  | pack => cases h; exact .pack _ _
  | xkey => cases h; exact .key _
  | xenc | xdec =>
    simp only [commandBody] at h
    split at h <;> cases h
    exact .transform rfl (by simp)

end Sys2Proof.Machine
end

section
/-! SUPPORT. How an accepted command ends, and what it leaves of the count, the flags and the host (R32, R37). -/

namespace Sys2Proof.Machine

variable {i : Instr} {s t : State} {c : Command} {din : List Byte}

/-- No error has the code of a normal end (R230). -/
theorem code_ne_zero (e : Err) : e.code ≠ 0#4 := by
  cases e <;> decide

/-- An accepted instruction ends with an error, or retires with what its pseudocode wrote and returned (R220). -/
theorem exec_ends (hf : s.status.fatal = false) (h : exec i s = .next t) :
    (∃ e, t = s.raise e) ∨
    ∃ u out, s.ReadyFor i ∧ s.hasInstance i.needs = true ∧ commandBody i s s.din = .ok (u, out) ∧
      t = u.retire out := by
  rcases exec_next h with ⟨hfatal, -⟩ | ⟨-, -, rfl⟩ | ⟨hready, hinst, rfl⟩
  · simp [hf] at hfatal
  · exact .inl ⟨_, rfl⟩
  · cases hbody : commandBody i s s.din with
    | error e => exact .inl ⟨e, rfl⟩
    | ok r => exact .inr ⟨r.1, r.2, hready, hinst, rfl, rfl⟩

/-- A command presented while `FATAL` = 1 changes nothing (R223). -/
theorem presentCommand_fatal (hf : s.status.fatal = true) : presentCommand c s = .next s := by
  simp [presentCommand, hf]

/-- An accepted illegal word ends with `E_ILLEGAL` (R76, R227). -/
theorem presentCommand_illegal {x : Illegal} (hf : s.status.fatal = false) (hd : decode c.word = .error x) :
    presentCommand c s = execIllegal (lenField c.word) (s.accept c.payload) := by
  simp [presentCommand, hf, hd]

/-- An accepted word, legal or not, ends with an error, or retires with what the pseudocode of its instruction wrote
and returned (R232). -/
theorem presentCommand_ends (hf : s.status.fatal = false) (h : presentCommand c s = .next t) :
    (∃ e, t = (s.accept c.payload).raise e) ∨
    ∃ i u out, c.payload.length = i.payloadLen ∧
      commandBody i (s.accept c.payload) c.payload = .ok (u, out) ∧ t = u.retire out := by
  have hf' : (s.accept c.payload).status.fatal = false := hf
  cases hd : decode c.word with
  | ok i =>
    rw [presentCommand_accepted hf hd] at h
    rcases exec_ends hf' h with herr | ⟨u, out, hready, -, hbody, ht⟩
    · exact .inl herr
    · exact .inr ⟨i, u, out, hready.2, hbody, ht⟩
  | error x =>
    rw [presentCommand_illegal hf hd, execIllegal] at h
    rcases runCommand_next h with ⟨hfatal, -⟩ | ⟨-, -, -, rfl⟩ | ⟨-, -, -, rfl⟩
    · simp [hf] at hfatal
    · exact .inl ⟨_, rfl⟩
    · exact .inl ⟨_, rfl⟩

/-! What the pseudocode of every command leaves as it was. -/

theorem BodyWrites.cseq (h : BodyWrites s din i t) : t.cseq = s.cseq := by
  cases h <;> rfl

theorem BodyWrites.fatal (h : BodyWrites s din i t) : t.status.fatal = s.status.fatal := by
  cases h <;> rfl

theorem BodyWrites.host (h : BodyWrites s din i t) : t.host = s.host := by
  cases h <;> rfl

theorem BodyWrites.plugOverlap (h : BodyWrites s din i t) : t.plugOverlap = s.plugOverlap := by
  cases h <;> rfl

/-! What only the commands listed for it write (R37). -/

/-- The tables, notches and starts are written by `ENCFG`. -/
theorem BodyWrites.enigma_frame (h : BodyWrites s din i t) (hi : ∀ n, i ≠ .encfg n) :
    t.rw = s.rw ∧ t.notch = s.notch ∧ t.start = s.start ∧ t.ref = s.ref ∧ t.plg = s.plg := by
  cases h with
  | enigma => exact absurd rfl (hi _)
  | _ => exact ⟨rfl, rfl, rfl, rfl, rfl⟩

/-- The positions are written by `ENCFG` and by what moves the rotors. -/
theorem BodyWrites.pos_frame (h : BodyWrites s din i t) (hi : ∀ n, i ≠ .encfg n) (hm : movesRotors i = false) :
    t.pos = s.pos := by
  cases h with
  | enigma => exact absurd rfl (hi _)
  | positions hp => simp [hm] at hp
  | _ => rfl

/-- The key of the Xxtea unit is written by `XKEY`. -/
theorem BodyWrites.xk_frame (h : BodyWrites s din i t) (hi : ∀ n, i ≠ .xkey n) : t.xk = s.xk := by
  cases h with
  | key => exact absurd rfl (hi _)
  | _ => rfl

/-- The configuration of the XxteaCfb unit is written by `CFBCFG`. -/
theorem BodyWrites.cfb_frame (h : BodyWrites s din i t) (hi : ∀ n, i ≠ .cfbcfg n) :
    t.ck = s.ck ∧ t.bs = s.bs ∧ t.ivb = s.ivb := by
  cases h with
  | cfb => exact absurd rfl (hi _)
  | _ => exact ⟨rfl, rfl, rfl⟩

/-- The length of the word array is written by `PACK`. -/
theorem BodyWrites.n_frame (h : BodyWrites s din i t) (hi : ∀ il n, i ≠ .pack il n) : t.n = s.n := by
  cases h with
  | pack => exact absurd rfl (hi _ _)
  | transform _ hv => exact hv
  | _ => rfl

/-- The word array is written by `PACK` and by the two transforms. -/
theorem BodyWrites.v_frame (h : BodyWrites s din i t) (hi : ∀ il n, i ≠ .pack il n)
    (ht : transformsArray i = false) : t.v = s.v := by
  cases h with
  | pack => exact absurd rfl (hi _ _)
  | transform hx => simp [ht] at hx
  | _ => rfl

/-! The valid flags are set by the construct commands (R26 to R28). -/

theorem BodyWrites.ev_iff (h : BodyWrites s din i t) :
    t.status.ev = true ↔ s.status.ev = true ∨ ∃ n, i = .encfg n := by
  cases h with
  | enigma => simp
  | nothing hi | positions hi | transform hi =>
    have : ¬∃ n, i = .encfg n := by rintro ⟨n, rfl⟩; cases hi
    simp [this]
  | _ => simp

theorem BodyWrites.xv_iff (h : BodyWrites s din i t) :
    t.status.xv = true ↔ s.status.xv = true ∨ ∃ n, i = .xkey n := by
  cases h with
  | nothing hi | positions hi | transform hi =>
    have : ¬∃ n, i = .xkey n := by rintro ⟨n, rfl⟩; cases hi
    simp [this]
  | _ => simp

theorem BodyWrites.cv_iff (h : BodyWrites s din i t) :
    t.status.cv = true ↔ s.status.cv = true ∨ ∃ n, i = .cfbcfg n := by
  cases h with
  | nothing hi | positions hi | transform hi =>
    have : ¬∃ n, i = .cfbcfg n := by rintro ⟨n, rfl⟩; cases hi
    simp [this]
  | _ => simp

end Sys2Proof.Machine
end

section
/-! The statements of 10_state about the count, the flags and the write sets (R30, R32, R37). -/

namespace Sys2Proof.Machine

/-- Settles O13: however an accepted command ends, its end adds 1 to the count and its pseudocode does not touch it. -/
theorem commandCountAdvances : Obligations.CommandCountAdvances := by
  unfold Obligations.CommandCountAdvances
  refine ⟨rfl, fun s t c rest hhost hstep => ?_⟩
  rw [step_command hhost] at hstep
  cases hf : s.status.fatal with
  | true =>
    rw [presentCommand_fatal (s := s.withHost rest) hf] at hstep
    cases hstep
    rfl
  | false =>
    rcases presentCommand_ends (s := s.withHost rest) hf hstep with ⟨e, rfl⟩ | ⟨i, u, out, -, hbody, rfl⟩
    · rfl
    · exact congrArg (· + 1#32) (commandBody_writes hbody).cseq

/-- `XKEY` needs no cipher unit and its pseudocode raises nothing (R180). -/
theorem exec_xkey_retires {n : BitVec 20} {s t : State} (hf : s.status.fatal = false)
    (h : exec (.xkey n) s = .next t) :
    ∃ u out, commandBody (.xkey n) s s.din = .ok (u, out) ∧ t = u.retire out := by
  rcases exec_next h with ⟨hfatal, -⟩ | ⟨-, hinst, -⟩ | ⟨-, -, rfl⟩
  · simp [hf] at hfatal
  · cases hinst
  · exact ⟨_, _, rfl, rfl⟩

/-- Settles O20: an error leaves the flags and shows its code; a normal end leaves what the pseudocode wrote. -/
theorem validFlagsFollowConstruction : Obligations.ValidFlagsFollowConstruction := by
  unfold Obligations.ValidFlagsFollowConstruction
  intro i s t hf h
  rcases exec_ends hf h with ⟨e, rfl⟩ | ⟨u, out, -, -, hbody, rfl⟩
  · have hxkey : ¬∃ n, i = .xkey n := by
      rintro ⟨n, rfl⟩
      obtain ⟨u, out, -, hraise⟩ := exec_xkey_retires hf h
      exact code_ne_zero e (congrArg (·.status.err) hraise)
    simp [code_ne_zero e, hxkey]
  · have hw := commandBody_writes hbody
    simp [hw.ev_iff, hw.xv_iff, hw.cv_iff]

/-- Settles O21: an error writes no register of its row, and a normal end what the pseudocode wrote. -/
theorem onlyListedCommandsWrite : Obligations.OnlyListedCommandsWrite := by
  unfold Obligations.OnlyListedCommandsWrite
  intro i s t h
  cases hf : s.status.fatal with
  | true =>
    obtain rfl : s = t := by
      rw [exec_eq_runCommand, runCommand_fatal hf] at h
      injection h
    simp
  | false =>
    rcases exec_ends hf h with ⟨e, rfl⟩ | ⟨u, out, -, -, hbody, rfl⟩
    · simp [State.n]
    · have hw := commandBody_writes hbody
      refine ⟨hw.enigma_frame, fun hi herst hestep => ?_, hw.xk_frame, hw.cfb_frame, fun hi => ⟨hw.n_frame hi, ?_⟩,
        hw.host, hw.plugOverlap⟩
      · refine hw.pos_frame (fun n => (hi n).1) (Bool.eq_false_iff.2 fun hm => ?_)
        obtain h | h | ⟨n, hn⟩ := (movesRotors_iff i).1 hm
        · exact herst h
        · exact hestep h
        · obtain ⟨-, hestrm, henige, henigd⟩ := hi n
          exact hn.elim hestrm (Or.elim · henige henigd)
      · intro hxenc hxdec
        refine hw.v_frame hi (Bool.eq_false_iff.2 fun ht => ?_)
        exact ((transformsArray_iff i).1 ht).elim hxenc hxdec

end Sys2Proof.Machine
end

section
/-! SUPPORT. The results of commands are short (R31), and what construction checks is what the invariant asks of the
tables and of the CFB configuration (R21, R24, R25, R28). -/

namespace Sys2Proof.Machine

/-! The length of a result. -/

theorem wordsToBytes_length_le {w : List Word} {il : Bool} {out : List Byte} (h : wordsToBytes w il = some out) :
    out.length ≤ 4 * w.length := by
  unfold wordsToBytes at h
  split at h
  · split at h
    · cases h
    · simp only at h
      split at h <;> cases h
      have hlen := dataBytes_length w.dropLast
      simp only [List.length_take, List.length_dropLast] at hlen ⊢
      omega
  · cases h
    exact (dataBytes_length w).le

/-- The chunk loop returns at most as many bytes as it is given (R203, R204). -/
theorem cfbLoop_length_le {dir : CfbDir} {k : Key} {bs fuel : Nat} {prev data out : List Byte}
    (h : cfbLoop dir k bs fuel prev data = .ok out) : out.length ≤ data.length := by
  induction fuel generalizing prev data out with
  | zero => cases h; simp
  | succ fuel ih =>
    cases data with
    | nil => cases h; simp
    | cons b rest =>
      simp only [cfbLoop] at h
      split at h
      · cases h
      · split at h <;> cases h
        rename_i tail htail
        have hrest := ih htail
        simp only [xorBytes, List.length_append, List.length_zipWith, List.length_take, List.length_drop] at hrest ⊢
        omega

/-- A result is bounded by the payload and the word array. -/
theorem commandBody_length_le {i : Instr} {s t : State} {din out : List Byte}
    (h : commandBody i s din = .ok (t, out)) : out.length ≤ din.length + 4 * s.n + 7 := by
  cases i with
  | nop | erst | estep | pack | xkey | raln => cases h; simp
  | encfg | cfbcfg | xenc | xdec =>
    simp only [commandBody] at h
    split at h <;> cases h
    simp
  | rfwd | rinv | refl | plug | fchain | ichain =>
    rw [commandBody] at h
    obtain ⟨-, hone⟩ := letterBody_ok h
    omega
  | estrm =>
    obtain rfl : (enigmaStream s din).2 = out := by injection h with h; exact congrArg Prod.snd h
    have hlen := enigmaStream_length_le s din
    omega
  | enige | enigd =>
    obtain rfl : (enigmaStream s.loadStart din).2 = out := by injection h with h; exact congrArg Prod.snd h
    have hlen := enigmaStream_length_le s.loadStart din
    omega
  | unpack =>
    simp only [commandBody] at h
    split at h <;> cases h
    have hlen := wordsToBytes_length_le ‹_›
    rw [State.n]
    omega
  | xxenc il =>
    simp only [commandBody] at h
    split at h <;> cases h
    have hbool := Bool.toNat_le il
    rw [dataBytes_length, xxteaEncrypt_length, bytesToWords_length]
    omega
  | xxdec =>
    simp only [commandBody] at h
    split at h
    · cases h
    · split at h <;> cases h
      have hlen := wordsToBytes_length_le ‹_›
      rw [xxteaDecrypt_length, bytesToWords_length] at hlen
      simp only [Bool.toNat_false] at hlen
      omega
  | cfbenc | cfbdec =>
    simp only [commandBody] at h
    split at h <;> cases h
    have hlen := cfbLoop_length_le ‹_›
    omega

/-! What construction checks. -/

theorem nodup_of_table_injective {t : Table} (h : Function.Injective fun i : Letter => t[i]) : t.toList.Nodup := by
  have hlist : t.toList = List.ofFn fun i : Letter => t[i] := by
    refine List.ext_getElem (by simp) fun j hj hj' => ?_
    rw [List.getElem_ofFn]
    simp
  rw [hlist]
  exact List.nodup_ofFn.2 h

theorem wiringTable_nodup {w : List Byte} {t : Table} (h : wiringTable w = some t) : t.toList.Nodup := by
  unfold wiringTable at h
  split at h
  · cases h
  · split at h
    · split at h <;> cases h
      assumption
    · cases h

theorem rotorField_nodup {din : List Byte} {k : Nat} {r : RotorField} (h : rotorField din k = some r) :
    r.wiring.toList.Nodup := by
  simp only [rotorField, Option.bind_eq_some_iff, Option.map_eq_some_iff] at h
  obtain ⟨w, hw, n, -, p, -, rfl⟩ := h
  exact wiringTable_nodup hw

/-- The tables of a checked record have no repeats (R110). -/
theorem enigmaRecord_nodup {din : List Byte} {r : EnigmaRecord} (h : enigmaRecord din = some r) :
    r.ref.toList.Nodup ∧ r.rotor0.wiring.toList.Nodup ∧ r.rotor1.wiring.toList.Nodup ∧
      r.rotor2.wiring.toList.Nodup := by
  unfold enigmaRecord at h
  split at h
  · cases h
  · simp only [Option.bind_eq_some_iff, Option.map_eq_some_iff] at h
    obtain ⟨ref, href, r0, h0, r1, h1, r2, h2, ps, -, rfl⟩ := h
    exact ⟨wiringTable_nodup href, rotorField_nodup h0, rotorField_nodup h1, rotorField_nodup h2⟩

/-- A checked record has a block size in range and an initialization vector that is long enough (R201, R208). -/
theorem cfbRecord_bounds {din : List Byte} {r : CfbRecord} (h : cfbRecord din = some r) :
    Config.bsMin ≤ r.blockSize ∧ r.blockSize ≤ Config.bsMax ∧ r.blockSize ≤ r.iv.length := by
  unfold cfbRecord at h
  split at h
  · cases h
  · simp only at h
    split at h
    · cases h
    · split at h <;> cases h
      rename_i hbounds
      simp only [not_or, not_lt] at hbounds
      exact hbounds

theorem identityTable_nodup : identityTable.toList.Nodup := by
  decide

/-- Exchanging by index reads the table at the exchanged letter (R107). -/
theorem applyPair_indexExchange (t : Table) (p : Letter × Letter) (i : Letter) :
    (applyPair .indexExchange t p)[i] = t[Equiv.swap p.1 p.2 i] := by
  obtain ⟨a, b⟩ := p
  simp only [applyPair, Fin.getElem_fin]
  by_cases hb : i = b
  · simp [hb]
  · have hb' : b.val ≠ i.val := fun h => hb (Fin.ext h.symm)
    by_cases ha : i = a
    · subst ha
      simp [hb']
    · have ha' : a.val ≠ i.val := fun h => ha (Fin.ext h.symm)
      simp [ha', hb', Equiv.swap_apply_of_ne_of_ne ha hb]

/-- Exchanging by value exchanges what is read (R107). -/
theorem applyPair_valueExchange (t : Table) (p : Letter × Letter) (i : Letter) :
    (applyPair .valueExchange t p)[i] = Equiv.swap p.1 p.2 t[i] := by
  simp [applyPair, Equiv.swap_apply_def]

/-- A pair keeps the plugboard a permutation, but for the reading `ASSIGN` (R107). -/
theorem applyPair_nodup {mode : PlugOverlap} (hm : mode ≠ .assign) {t : Table} (ht : t.toList.Nodup)
    (p : Letter × Letter) : (applyPair mode t p).toList.Nodup := by
  have hinj := table_injective ht
  have hswap := (Equiv.swap p.1 p.2).injective
  apply nodup_of_table_injective
  cases mode with
  | indexExchange =>
    simp only [applyPair_indexExchange]
    exact hinj.comp hswap
  | assign => exact absurd rfl hm
  | valueExchange =>
    simp only [applyPair_valueExchange]
    exact hswap.comp hinj

/-- The plugboard is a permutation, but for the reading `ASSIGN` (R25, R106). -/
theorem buildPlug_nodup {mode : PlugOverlap} (hm : mode ≠ .assign) (pairs : List (Letter × Letter)) :
    (buildPlug mode pairs).toList.Nodup :=
  List.foldlRecOn (motive := fun t : Table => t.toList.Nodup) pairs _ identityTable_nodup
    fun _ ht p _ => applyPair_nodup hm ht p

end Sys2Proof.Machine
end

section
/-! SUPPORT. The invariant in two halves: what it asks of the registers a command can write, and what the end of a
command gives. -/

namespace Sys2Proof.Machine

variable {s t : State}

/-- The half of the invariant about the registers that only the pseudocode of commands writes (R21, R24, R25, R28,
R29). -/
structure RegistersMeet (s : State) : Prop where
  tables : s.status.ev = true → (∀ k : Slot, s.rw[k].toList.Nodup) ∧ s.ref.toList.Nodup
  plugboard : s.status.ev = true → s.plugOverlap ≠ .assign → s.plg.toList.Nodup
  cfb : s.status.cv = true → Config.bsMin ≤ s.bs ∧ s.bs ≤ Config.bsMax ∧ s.ivb.length = s.bs
  words : s.n ≤ Config.nwMax

theorem State.Inv.registers (h : s.Inv) : RegistersMeet s :=
  ⟨h.tables, h.plugboard, h.cfb, h.words⟩

theorem RegistersMeet.accept (h : RegistersMeet s) (payload : List Byte) : RegistersMeet (s.accept payload) :=
  ⟨h.tables, h.plugboard, h.cfb, h.words⟩

/-- The host is no part of the invariant. -/
theorem State.Inv.withHost (h : s.Inv) (rest : List HostAction) : (s.withHost rest).Inv where
  __ := h

/-- The state after reset meets the invariant: no cipher unit is constructed (R39). -/
theorem reset_inv : State.reset.Inv where
  tables h := by cases h
  plugboard h := by cases h
  cfb h := by cases h
  words := Nat.zero_le _
  outlen := rfl
  code := Nat.zero_le _
  fatal := by decide
  noResult _ := rfl
  noPayload := rfl

/-- Reset gives the invariant, whatever the block was doing (R240, R242). -/
theorem takeReset_inv (s : State) : s.takeReset.Inv where
  __ := reset_inv
  plugboard h := by cases h

/-- The codes of the fatal errors are 3 and 4 (R230). -/
theorem isFatal_iff_code (e : Err) : e.isFatal = true ↔ e.code = 3#4 ∨ e.code = 4#4 := by
  cases e <;> decide

theorem code_le_seven (e : Err) : e.code.toNat ≤ 7 := by
  cases e <;> decide

/-- The end with an error gives the other half (R222, R223). -/
theorem RegistersMeet.raise (h : RegistersMeet s) (hf : s.status.fatal = false) (e : Err) : (s.raise e).Inv where
  tables := h.tables
  plugboard := h.plugboard
  cfb := h.cfb
  words := h.words
  outlen := rfl
  code := code_le_seven e
  fatal := by simpa [hf] using isFatal_iff_code e
  noResult _ := rfl
  noPayload := rfl

/-- So does the normal end, for a result whose length fits `OUTLEN` (R221). -/
theorem RegistersMeet.retire (h : RegistersMeet s) (hf : s.status.fatal = false) {out : List Byte}
    (hout : out.length < 2 ^ 32) : (s.retire out).Inv where
  tables := h.tables
  plugboard := h.plugboard
  cfb := h.cfb
  words := h.words
  outlen := by simpa using hout
  code := by simp
  fatal := by simp [hf]
  noResult h0 := absurd rfl h0
  noPayload := rfl

/-- A payload is shorter than `2^20` bytes, since `LEN` has 20 bits (R70, R72). -/
theorem payloadLen_lt (i : Instr) : i.payloadLen < 2 ^ 20 := by
  cases i with
  | encfg n | estrm n | enige n | enigd n | pack _ n | xkey n => exact n.isLt
  | xxenc _ n | xxdec _ n | cfbcfg n | cfbenc n | cfbdec n => exact n.isLt
  | _ => simp [Instr.payloadLen]

/-- A constructed Enigma unit has permutations for tables (R110, R114). -/
theorem RegistersMeet.configureEnigma (h : RegistersMeet s) {din : List Byte} {r : EnigmaRecord}
    (hr : enigmaRecord din = some r) : RegistersMeet (s.configureEnigma r) where
  tables _ := by
    obtain ⟨href, h0, h1, h2⟩ := enigmaRecord_nodup hr
    refine ⟨fun k => ?_, href⟩
    match k with
    | 0 => exact h0
    | 1 => exact h1
    | 2 => exact h2
  plugboard _ hm := buildPlug_nodup hm r.pairs
  cfb := h.cfb
  words := h.words

/-- A constructed XxteaCfb unit has a block size in range and an `IVB` of that many bytes (R201, R208). -/
theorem RegistersMeet.configureCfb (h : RegistersMeet s) {din : List Byte} {r : CfbRecord}
    (hr : cfbRecord din = some r) : RegistersMeet (s.configureCfb r) where
  tables := h.tables
  plugboard := h.plugboard
  cfb _ := by
    obtain ⟨hmin, hmax, hiv⟩ := cfbRecord_bounds hr
    exact ⟨hmin, hmax, by simpa using hiv⟩
  words := h.words

/-- The longest payload packs into `NW_MAX` words, the length word included (R29, R151). -/
theorem bytesToWords_length_le {din : List Byte} (hlen : din.length < 2 ^ 20) (il : Bool) :
    (bytesToWords din il).length ≤ Config.nwMax := by
  have hbool := Bool.toNat_le il
  rw [bytesToWords_length, Config.nwMax]
  omega

/-- The pseudocode of every command keeps the first half. -/
theorem BodyWrites.registers {i : Instr} {din : List Byte} (hw : BodyWrites s din i t) (h : RegistersMeet s)
    (hlen : din.length < 2 ^ 20) : RegistersMeet t := by
  cases hw with
  | nothing => exact h
  | positions => exact ⟨h.tables, h.plugboard, h.cfb, h.words⟩
  | enigma hr => exact h.configureEnigma hr
  | pack il => exact ⟨h.tables, h.plugboard, h.cfb, bytesToWords_length_le hlen il⟩
  | key => exact ⟨h.tables, h.plugboard, h.cfb, h.words⟩
  | transform _ hv => exact ⟨h.tables, h.plugboard, h.cfb, hv.trans_le h.words⟩
  | cfb hr => exact h.configureCfb hr

/-- A command presented keeps the invariant: not accepted it changes nothing, and accepted it ends with an error or
retires. -/
theorem presentCommand_keeps_inv {c : Command} (h : s.Inv) (hp : presentCommand c s = .next t) : t.Inv := by
  cases hf : s.status.fatal with
  | true =>
    rw [presentCommand_fatal hf] at hp
    cases hp
    exact h
  | false =>
    have hreg := h.registers.accept c.payload
    rcases presentCommand_ends hf hp with ⟨e, rfl⟩ | ⟨i, u, out, hlen, hbody, rfl⟩
    · exact hreg.raise hf e
    · have hw := commandBody_writes hbody
      have hpayload : c.payload.length < 2 ^ 20 := hlen ▸ payloadLen_lt i
      refine (hw.registers hreg hpayload).retire (hw.fatal.trans hf) ?_
      have hout := commandBody_length_le hbody
      have hwords := hreg.words
      rw [Config.nwMax] at hwords
      omega

end Sys2Proof.Machine
end

section
/-! The statements of 10_state about reset, the layout of `STATUS` and the invariant (R30, R39). -/

namespace Sys2Proof.Machine

/-- Settles O23: an idle step and a reset are clear, and a command is `presentCommand_keeps_inv`. -/
theorem stepKeepsInvariant : Obligations.StepKeepsInvariant := by
  unfold Obligations.StepKeepsInvariant
  intro s t h hstep
  unfold step at hstep
  split at hstep
  · cases hstep
    exact h
  · rename_i a rest _
    cases a with
    | command c => exact presentCommand_keeps_inv (h.withHost rest) hstep
    | commandThenReset c => cases hstep; exact takeReset_inv _
    | reset => cases hstep; exact takeReset_inv _

/-- Settles O24. -/
theorem resetMeetsInvariant : Obligations.ResetMeetsInvariant := reset_inv

/-- Settles O11: each value is a field of the reset state as it is written. -/
theorem resetStateHasStatedValues : Obligations.ResetStateHasStatedValues :=
  ⟨rfl, rfl, rfl, rfl, rfl, rfl, rfl, rfl, rfl, rfl⟩

/-- A bit of the register is a bit of the code, then a flag, then 0 (R30). -/
theorem Status.getLsbD_word (t : Status) (j : Nat) :
    t.word.getLsbD j =
      if j < 4 then t.err.getLsbD j
      else if j = 4 then t.ev else if j = 5 then t.xv else if j = 6 then t.cv else if j = 7 then t.fatal else false := by
  simp only [Status.word, BitVec.getLsbD_append, BitVec.getLsbD_ofBool]
  grind

/-- Settles O14: the fields bit by bit. -/
theorem statusRegisterLayout : Obligations.StatusRegisterLayout := by
  unfold Obligations.StatusRegisterLayout
  intro t
  refine ⟨?_, t.getLsbD_word 4, t.getLsbD_word 5, t.getLsbD_word 6, t.getLsbD_word 7, ?_⟩
  · apply BitVec.eq_of_getLsbD_eq
    intro j hj
    simp [t.getLsbD_word, hj]
  · apply BitVec.eq_of_getLsbD_eq
    intro j hj
    rw [BitVec.getLsbD_extractLsb', t.getLsbD_word]
    grind

end Sys2Proof.Machine
end

section
/-! SUPPORT. What a command returns is a function of its payload and of its read set (R37, R40). -/

namespace Sys2Proof.Machine

variable {s t : State}

/-- Two states agree on the registers the path of a letter and the stepping read, the positions aside (R131, R134). -/
structure SameWiring (s t : State) : Prop where
  rw : s.rw = t.rw
  notch : s.notch = t.notch
  ref : s.ref = t.ref
  plg : s.plg = t.plg

theorem fchain_congr (hrw : s.rw = t.rw) (hpos : s.pos = t.pos) (x : Letter) : s.fchain x = t.fchain x := by
  simp only [State.fchain, State.rotFwd, hrw, hpos]

theorem ichain_congr (hrw : s.rw = t.rw) (hpos : s.pos = t.pos) (x : Letter) : s.ichain x = t.ichain x := by
  simp only [State.ichain, State.rotInv, hrw, hpos]

theorem SameWiring.substitute (h : SameWiring s t) (hpos : s.pos = t.pos) (x : Letter) :
    s.substitute x = t.substitute x := by
  simp only [State.substitute, State.plugOf, State.reflect, h.plg, h.ref, fchain_congr h.rw hpos,
    ichain_congr h.rw hpos]

/-- The alignment of a slot depends on its notch and its position (R103). -/
theorem aligned_congr {k : Slot} (hnotch : s.notch[k] = t.notch[k]) (hpos : s.pos[k] = t.pos[k]) :
    s.aligned k = t.aligned k := by
  simp only [State.aligned, hnotch, hpos]

/-- The next positions depend on the notches and the positions (R131). -/
theorem stepRotors_pos_congr (hnotch : s.notch = t.notch) (hpos : s.pos = t.pos) :
    s.stepRotors.pos = t.stepRotors.pos := by
  have haligned : ∀ k, s.aligned k = t.aligned k := fun k =>
    aligned_congr (congrArg (·[k]) hnotch) (congrArg (·[k]) hpos)
  simp only [State.stepRotors]
  rw [haligned 0, haligned 1, haligned 2, hpos]

/-- The stream depends on the wiring and the positions it starts from (R134, R135). -/
theorem SameWiring.enigmaStream_out (h : SameWiring s t) (hpos : s.pos = t.pos) (d : List Byte) :
    (enigmaStream s d).2 = (enigmaStream t d).2 := by
  induction d generalizing s t with
  | nil => rfl
  | cons b d ih =>
    cases hb : streamLetter b with
    | none =>
      rw [enigmaStream_cons_none hb, enigmaStream_cons_none hb]
      exact ih h hpos
    | some x =>
      have hstep : SameWiring s.stepRotors t.stepRotors := ⟨h.rw, h.notch, h.ref, h.plg⟩
      have hpos' := stepRotors_pos_congr h.notch hpos
      rw [enigmaStream_cons_some hb, enigmaStream_cons_some hb, hstep.substitute hpos' x]
      exact congrArg (letterByte (t.stepRotors.substitute x) :: ·) (ih hstep hpos')

/-- What the pseudocode of a command comes to for the host: its error, or the bytes it returns. -/
def CommandEnd.result (b : CommandEnd) : Except Err (List Byte) := b.map Prod.snd

@[simp] theorem CommandEnd.result_ok (r : State × List Byte) : CommandEnd.result (.ok r) = .ok r.2 := rfl

@[simp] theorem CommandEnd.result_error (e : Err) : CommandEnd.result (.error e) = .error e := rfl

/-- A lookup returns a function of its payload and of what it looks up (R115 to R122). -/
theorem letterBody_result_congr {f : State → Letter → Letter} (h : ∀ x, f s x = f t x) (din : List Byte) :
    (letterBody f s din).result = (letterBody f t din).result := by
  unfold letterBody
  split
  · simp [h]
  · rfl

/-- Two states that agree on the read set of an instruction give its pseudocode the same result. -/
theorem commandBody_result_congr {i : Instr} (h : sameReads i s t) :
    (commandBody i s s.din).result = (commandBody i t t.din).result := by
  obtain ⟨-, -, -, hdin, hreads⟩ := h
  rw [hdin]
  cases i with
  | nop | pack | xkey | erst | estep => rfl
  | encfg | cfbcfg =>
    simp only [commandBody]
    split <;> rfl
  | rfwd k =>
    obtain ⟨hrw, hpos⟩ := hreads
    have hfwd : ∀ x, s.rotFwd k x = t.rotFwd k x := fun x => by simp only [State.rotFwd, hrw, hpos]
    exact letterBody_result_congr (f := fun s x => s.rotFwd k x) hfwd t.din
  | rinv k =>
    obtain ⟨hrw, hpos⟩ := hreads
    have hinv : ∀ x, s.rotInv k x = t.rotInv k x := fun x => by simp only [State.rotInv, hrw, hpos]
    exact letterBody_result_congr (f := fun s x => s.rotInv k x) hinv t.din
  | raln k =>
    obtain ⟨hnotch, hpos⟩ := hreads
    simp only [commandBody, CommandEnd.result_ok]
    rw [aligned_congr hnotch hpos]
  | refl => exact letterBody_result_congr (fun x => congrArg (·[x]) hreads) t.din
  | plug => exact letterBody_result_congr (fun x => congrArg (·[x]) hreads) t.din
  | fchain => exact letterBody_result_congr (fchain_congr hreads.1 hreads.2) t.din
  | ichain => exact letterBody_result_congr (ichain_congr hreads.1 hreads.2) t.din
  | estrm =>
    obtain ⟨hrw, hnotch, href, hplg, hpos⟩ := hreads
    have hwiring : SameWiring s t := ⟨hrw, hnotch, href, hplg⟩
    exact congrArg Except.ok (hwiring.enigmaStream_out hpos t.din)
  | enige | enigd =>
    obtain ⟨hrw, hnotch, href, hplg, hstart⟩ := hreads
    have hwiring : SameWiring s.loadStart t.loadStart := ⟨hrw, hnotch, href, hplg⟩
    exact congrArg Except.ok (hwiring.enigmaStream_out hstart t.din)
  | unpack =>
    simp only [commandBody, show s.v = t.v from hreads]
    split <;> rfl
  | xenc | xdec =>
    simp only [commandBody, hreads.1]
    split <;> rfl
  | xxenc =>
    simp only [commandBody, show s.xk = t.xk from hreads]
    split <;> rfl
  | xxdec =>
    simp only [commandBody, show s.xk = t.xk from hreads]
    split
    · rfl
    · split <;> rfl
  | cfbenc | cfbdec =>
    obtain ⟨hck, hbs, hivb⟩ := hreads
    simp only [commandBody, State.cfb, hck, hbs, hivb]
    split <;> rfl

/-- Two states show the host the same result, length and code. -/
structure SameResult (s t : State) : Prop where
  dout : s.dout = t.dout
  outlen : s.outlen = t.outlen
  err : s.status.err = t.status.err

theorem raise_sameResult (s t : State) (e : Err) : SameResult (s.raise e) (t.raise e) := ⟨rfl, rfl, rfl⟩

theorem retire_sameResult (s t : State) (out : List Byte) : SameResult (s.retire out) (t.retire out) := ⟨rfl, rfl, rfl⟩

/-- What the host sees of the end of a command is what the pseudocode came to (R221 to R223). -/
theorem finish_sameResult {b c : CommandEnd} (h : b.result = c.result) : SameResult (s.finish b) (t.finish c) := by
  cases b with
  | error e =>
    cases c with
    | error e' =>
      obtain rfl : e = e' := by simpa using h
      exact raise_sameResult s t e
    | ok r => cases h
  | ok r =>
    cases c with
    | error e => cases h
    | ok r' =>
      obtain ⟨u, out⟩ := r
      obtain ⟨u', out'⟩ := r'
      obtain rfl : out = out' := by simpa using h
      exact retire_sameResult u u' out

/-- States with the same valid flags have the same cipher units (R228). -/
theorem sameReads_hasInstance {i : Instr} (h : sameReads i s t) (u : Option CipherUnit) :
    s.hasInstance u = t.hasInstance u := by
  obtain ⟨hev, hxv, hcv, -⟩ := h
  match u with
  | none => rfl
  | some .enigma => exact hev
  | some .xxtea => exact hxv
  | some .cfb => exact hcv

end Sys2Proof.Machine
end

section
/-! The statement of 10_state about the read sets (R37, R40). -/

namespace Sys2Proof.Machine

/-- Settles O22: both states have the cipher unit or both lack it, and the pseudocode comes to the same result. -/
theorem resultsDependOnReadSetOnly : Obligations.ResultsDependOnReadSetOnly := by
  unfold Obligations.ResultsDependOnReadSetOnly
  intro i s t s' t' hs ht hreads hs' ht'
  have hinst := sameReads_hasInstance hreads i.needs
  suffices h : SameResult s' t' from ⟨h.dout, h.outlen, h.err⟩
  rcases exec_next hs' with ⟨hfatal, -⟩ | ⟨-, hsi, rfl⟩ | ⟨-, hsi, rfl⟩
  · simp [hs] at hfatal
  · rcases exec_next ht' with ⟨hfatal, -⟩ | ⟨-, -, rfl⟩ | ⟨-, hti, -⟩
    · simp [ht] at hfatal
    · exact raise_sameResult s t .noInst
    · simp [hsi, hti] at hinst
  · rcases exec_next ht' with ⟨hfatal, -⟩ | ⟨-, hti, -⟩ | ⟨-, -, rfl⟩
    · simp [ht] at hfatal
    · simp [hsi, hti] at hinst
    · exact finish_sameResult (commandBody_result_congr hreads)

end Sys2Proof.Machine
end

section
/-! SUPPORT. Decode and encode are inverse (30_encoding R70 to R74): a word is its three fields, and `decode` checks
each of them against what `encode` puts there. -/

namespace Sys2Proof

variable {w : Word} {i : Instr}

/-- A word is the command word of given fields exactly when it has those fields (R70). -/
theorem commandWord_eq_iff {opc : BitVec 8} {arg : BitVec 4} {len : BitVec 20} :
    commandWord opc arg len = w ↔ opcField w = opc ∧ argField w = arg ∧ lenField w = len := by
  constructor
  · rintro rfl
    simp
  · rintro ⟨rfl, rfl, rfl⟩
    exact commandWord_fields w

/-- `opcField` is the literal a branch of `decode` matches on. -/
theorem opcField_eq_ofNat {n : Nat} (h : (opcField w).toNat = n) : opcField w = BitVec.ofNat 8 n := by
  rw [← h, BitVec.ofNat_toNat, BitVec.setWidth_eq]

/-- A word that decodes to an instruction is its encoding: the branch of `decode` gives `OPC`, and the checks of the
row's form (R71: no operand, `il`, slot; R72: fixed or free `LEN`) give `ARG` and `LEN`. -/
theorem encode_of_decode (h : decode w = .ok i) : encode i = w := by
  unfold decode at h
  split at h <;> rename_i hopc
  case h_25 => simp at h
  all_goals
    replace hopc := opcField_eq_ofNat hopc
    simp only [decode_plain_ok, decode_flagged_ok, decode_slotted_ok, decode_fixed_ok, Except.ok.injEq] at h
  case h_1 | h_6 | h_7 | h_8 | h_9 | h_10 | h_11 | h_18 | h_19 =>
    obtain ⟨harg, hlen, rfl⟩ := h
    exact commandWord_eq_iff.2 ⟨hopc, harg, hlen⟩
  case h_2 | h_12 | h_13 | h_14 | h_17 | h_22 | h_23 | h_24 =>
    obtain ⟨harg, rfl⟩ := h
    exact commandWord_eq_iff.2 ⟨hopc, harg, rfl⟩
  case h_3 | h_4 | h_5 =>
    obtain ⟨k, harg, hlen, rfl⟩ := h
    exact commandWord_eq_iff.2 ⟨hopc, harg, hlen⟩
  case h_15 | h_20 | h_21 =>
    obtain ⟨il, harg, rfl⟩ := h
    exact commandWord_eq_iff.2 ⟨hopc, harg, rfl⟩
  case h_16 =>
    obtain ⟨il, harg, hlen, rfl⟩ := h
    exact commandWord_eq_iff.2 ⟨hopc, harg, hlen⟩

/-- The encoding of every instruction decodes to it. -/
theorem decode_encode (i : Instr) : decode (encode i) = .ok i := by
  cases i <;> simp [encode, decode, decode_plain_ok, decode_flagged_ok, decode_slotted_ok, decode_fixed_ok]

/-- The words of an instruction are exactly those that decode to it. -/
theorem decode_ok_iff : decode w = .ok i ↔ encode i = w := by
  constructor
  · exact encode_of_decode
  · rintro rfl
    exact decode_encode i

end Sys2Proof
end

section
/-! SUPPORT. The opcode map selects the words that `encode` makes (30_encoding R74, R75): `match` and `mask` are
compared field by field, and each of the five forms of row leaves free what its instructions encode there. -/

namespace Sys2Proof

open Sys2Proof.Machine

variable {w m : Word} {opc : BitVec 8} {arg : BitVec 4} {len : BitVec 20}

/-! Masking a word masks each of its fields. -/

theorem opcField_and (w w' : Word) : opcField (w &&& w') = opcField w &&& opcField w' := BitVec.extractLsb'_and

theorem argField_and (w w' : Word) : argField (w &&& w') = argField w &&& argField w' := BitVec.extractLsb'_and

theorem lenField_and (w w' : Word) : lenField (w &&& w') = lenField w &&& lenField w' := BitVec.extractLsb'_and

/-- The slot bits `W[21:20]` are the low bits of `ARG` (R71). -/
theorem slotBits_eq (w : Word) : w.extractLsb' 20 2 = (argField w).extractLsb' 0 2 := by
  apply BitVec.eq_of_getElem_eq
  intro j hj
  simp only [argField, BitVec.getElem_extractLsb', BitVec.getLsbD_extractLsb']
  grind

/-- The flag bit `W[20]` is the lowest bit of `ARG` (R71). -/
theorem flagBit_eq (w : Word) : w.getLsbD 20 = (argField w).getLsbD 0 := by
  simp [argField]

/-- The slot bits of a slot's `ARG` value are the slot. -/
theorem slotArg_slotBits (k : Slot) : ((slotArg k).extractLsb' 0 2).toNat = k.val := by
  revert k; decide

/-- The lowest bit of the flag's `ARG` value is the flag. -/
theorem ilArg_getLsbD (il : Bool) : (ilArg il).getLsbD 0 = il := by
  cases il <;> decide

/-- The slot rows' check of `ARG` lets through exactly the values of the three slots (R71, R75). -/
theorem slotArg_check : ∀ arg : BitVec 4,
    arg &&& 0xC#4 = 0#4 ∧ arg.extractLsb' 0 2 ≠ 3#2 ↔ ∃ k, arg = slotArg k := by decide

/-- The flagged rows' mask of `ARG` lets through exactly the values of the flag (R71). -/
theorem ilArg_check : ∀ arg : BitVec 4, arg &&& 0xE#4 = 0#4 ↔ ∃ il, arg = ilArg il := by decide

/-- A row whose mask keeps all of `OPC` selects by `OPC`, the masked `ARG` and `LEN`, and on a slot row by the slot
bits as well. -/
theorem selects_iff_fields {argMask : BitVec 4} {lenMask : BitVec 20} {slotRow : Bool} :
    OpcodeRow.selects ⟨commandWord opc arg len, commandWord 0xFF#8 argMask lenMask, slotRow⟩ w = true ↔
      opcField w = opc ∧ argField w &&& argMask = arg ∧ lenField w &&& lenMask = len ∧
        (slotRow = true → (argField w).extractLsb' 0 2 ≠ 3#2) := by
  have hopc : opcField (w &&& commandWord 0xFF#8 argMask lenMask) = opcField w := by
    rw [opcField_and, opcField_commandWord]; exact BitVec.and_allOnes
  simp only [OpcodeRow.selects, Bool.and_eq_true, beq_iff_eq, eq_comm (b := commandWord opc arg len),
    commandWord_eq_iff, hopc, argField_and, lenField_and, argField_commandWord, lenField_commandWord, slotBits_eq]
  cases slotRow <;> simp [and_assoc]

/-- A row without operands selects one word. -/
theorem selects_exact_iff : OpcodeRow.selects ⟨m, 0xFFFFFFFF#32, false⟩ w = true ↔ m = w := by
  have hw : w &&& 0xFFFFFFFF#32 = w := BitVec.and_allOnes
  simp [OpcodeRow.selects, hw, eq_comm (a := w)]

/-- A row with a free `LEN` only. -/
theorem selects_freeLen_iff (hm : m = commandWord opc 0#4 0#20) :
    OpcodeRow.selects ⟨m, 0xFFF00000#32, false⟩ w = true ↔ ∃ n, commandWord opc 0#4 n = w := by
  have hmask : 0xFFF00000#32 = commandWord 0xFF#8 0xF#4 0#20 := by decide
  have harg : argField w &&& 0xF#4 = argField w := BitVec.and_allOnes
  rw [hm, hmask, selects_iff_fields]
  simp [harg, commandWord_eq_iff]

/-- A slot row: the slots are the three values its check lets through. -/
theorem selects_slot_iff (hm : m = commandWord opc 0#4 len) :
    OpcodeRow.selects ⟨m, 0xFFCFFFFF#32, true⟩ w = true ↔ ∃ k, commandWord opc (slotArg k) len = w := by
  have hmask : 0xFFCFFFFF#32 = commandWord 0xFF#8 0xC#4 0xFFFFF#20 := by decide
  have hlen : lenField w &&& 0xFFFFF#20 = lenField w := BitVec.and_allOnes
  rw [hm, hmask, selects_iff_fields, hlen]
  simp only [commandWord_eq_iff, exists_and_left, exists_and_right, ← slotArg_check]
  tauto

/-- A row with the flag `il` and a fixed `LEN`. -/
theorem selects_flag_iff (hm : m = commandWord opc 0#4 len) :
    OpcodeRow.selects ⟨m, 0xFFEFFFFF#32, false⟩ w = true ↔ ∃ il, commandWord opc (ilArg il) len = w := by
  have hmask : 0xFFEFFFFF#32 = commandWord 0xFF#8 0xE#4 0xFFFFF#20 := by decide
  have hlen : lenField w &&& 0xFFFFF#20 = lenField w := BitVec.and_allOnes
  rw [hm, hmask, selects_iff_fields, hlen, ilArg_check]
  simp [commandWord_eq_iff]

/-- A row with the flag `il` and a free `LEN`. -/
theorem selects_flagFreeLen_iff (hm : m = commandWord opc 0#4 0#20) :
    OpcodeRow.selects ⟨m, 0xFFE00000#32, false⟩ w = true ↔ ∃ il n, commandWord opc (ilArg il) n = w := by
  have hmask : 0xFFE00000#32 = commandWord 0xFF#8 0xE#4 0#20 := by decide
  rw [hm, hmask, selects_iff_fields, ilArg_check]
  simp [commandWord_eq_iff]

/-- The row of an instruction selects its encoding. -/
theorem row_selects_encode (i : Instr) : i.row.selects (encode i) = true := by
  cases i
  case nop | refl | plug | fchain | ichain | erst | estep | xenc | xdec => exact selects_exact_iff.2 (by decide)
  case encfg n | estrm n | enige n | enigd n | xkey n | cfbcfg n | cfbenc n | cfbdec n =>
    exact (selects_freeLen_iff (by decide)).2 ⟨n, rfl⟩
  case rfwd k | rinv k | raln k => exact (selects_slot_iff (by decide)).2 ⟨k, rfl⟩
  case unpack il => exact (selects_flag_iff (by decide)).2 ⟨il, rfl⟩
  case pack il n | xxenc il n | xxdec il n => exact (selects_flagFreeLen_iff (by decide)).2 ⟨il, n, rfl⟩

/-- What the row of an instruction selects is the encoding of an instruction of that row. -/
theorem exists_encode_of_row_selects (i : Instr) (h : i.row.selects w = true) :
    ∃ j : Instr, j.row = i.row ∧ encode j = w := by
  cases i
  case nop | refl | plug | fchain | ichain | erst | estep | xenc | xdec => exact ⟨_, rfl, selects_exact_iff.1 h⟩
  case encfg => exact ((selects_freeLen_iff (by decide)).1 h).elim fun n hw => ⟨.encfg n, rfl, hw⟩
  case estrm => exact ((selects_freeLen_iff (by decide)).1 h).elim fun n hw => ⟨.estrm n, rfl, hw⟩
  case enige => exact ((selects_freeLen_iff (by decide)).1 h).elim fun n hw => ⟨.enige n, rfl, hw⟩
  case enigd => exact ((selects_freeLen_iff (by decide)).1 h).elim fun n hw => ⟨.enigd n, rfl, hw⟩
  case xkey => exact ((selects_freeLen_iff (by decide)).1 h).elim fun n hw => ⟨.xkey n, rfl, hw⟩
  case cfbcfg => exact ((selects_freeLen_iff (by decide)).1 h).elim fun n hw => ⟨.cfbcfg n, rfl, hw⟩
  case cfbenc => exact ((selects_freeLen_iff (by decide)).1 h).elim fun n hw => ⟨.cfbenc n, rfl, hw⟩
  case cfbdec => exact ((selects_freeLen_iff (by decide)).1 h).elim fun n hw => ⟨.cfbdec n, rfl, hw⟩
  case rfwd => exact ((selects_slot_iff (by decide)).1 h).elim fun k hw => ⟨.rfwd k, rfl, hw⟩
  case rinv => exact ((selects_slot_iff (by decide)).1 h).elim fun k hw => ⟨.rinv k, rfl, hw⟩
  case raln => exact ((selects_slot_iff (by decide)).1 h).elim fun k hw => ⟨.raln k, rfl, hw⟩
  case unpack => exact ((selects_flag_iff (by decide)).1 h).elim fun il hw => ⟨.unpack il, rfl, hw⟩
  case pack => exact ((selects_flagFreeLen_iff (by decide)).1 h).elim fun il ⟨n, hw⟩ => ⟨.pack il n, rfl, hw⟩
  case xxenc => exact ((selects_flagFreeLen_iff (by decide)).1 h).elim fun il ⟨n, hw⟩ => ⟨.xxenc il n, rfl, hw⟩
  case xxdec => exact ((selects_flagFreeLen_iff (by decide)).1 h).elim fun il ⟨n, hw⟩ => ⟨.xxdec il n, rfl, hw⟩

/-- The row of every instruction is in the map. -/
theorem row_mem_opcodeMap (i : Instr) : i.row ∈ opcodeMap := by
  cases i <;> simp [opcodeMap, rowRepresentatives, Instr.row]

/-- What a row of the map selects decodes to an instruction of that row. -/
theorem exists_decode_of_selects {r : OpcodeRow} (hr : r ∈ opcodeMap) (h : r.selects w = true) :
    ∃ i, decode w = .ok i ∧ i.row = r := by
  obtain ⟨i, -, rfl⟩ := List.mem_map.1 hr
  obtain ⟨j, hrow, hw⟩ := exists_encode_of_row_selects i h
  exact ⟨j, decode_ok_iff.2 hw, hrow⟩

/-- `decode` refuses exactly the words that no row of the map selects. -/
theorem decode_error_iff : (∃ e, decode w = .error e) ↔ ∀ r ∈ opcodeMap, r.selects w = false := by
  constructor
  · rintro ⟨e, he⟩ r hr
    by_contra hsel
    obtain ⟨i, hi, -⟩ := exists_decode_of_selects hr (by simpa using hsel)
    simp [he] at hi
  · intro hnone
    cases hd : decode w with
    | error e => exact ⟨e, rfl⟩
    | ok i =>
      have hsel := row_selects_encode i
      rw [encode_of_decode hd, hnone _ (row_mem_opcodeMap i)] at hsel
      contradiction

/-- The slot of an instruction is its word's slot field (R71). -/
theorem slotOf_encode {i : Instr} {k : Slot} (h : slotOf i = some k) :
    k.val = ((encode i).extractLsb' 20 2).toNat := by
  cases i <;> simp only [slotOf, Option.some.injEq, reduceCtorEq] at h
  all_goals
    subst h
    rw [slotBits_eq]
    simp only [encode, argField_commandWord, slotArg_slotBits]

/-- The flag of an instruction is its word's bit 20 (R71). -/
theorem ilOf_encode {i : Instr} {il : Bool} (h : ilOf i = some il) : il = (encode i).getLsbD 20 := by
  cases i <;> simp only [ilOf, Option.some.injEq, reduceCtorEq] at h
  all_goals
    subst h
    rw [flagBit_eq]
    simp only [encode, argField_commandWord, ilArg_getLsbD]

/-- The free `LEN` of an instruction is its word's `LEN` field (R72). -/
theorem lenOf_encode {i : Instr} {n : BitVec 20} (h : lenOf i = some n) : n = lenField (encode i) := by
  cases i <;> simp only [lenOf, Option.some.injEq, reduceCtorEq] at h
  all_goals
    subst h
    simp only [encode, lenField_commandWord]

end Sys2Proof
end

section
/-! SUPPORT. The `LEN` field of every instruction's word, and what an accepted illegal word leaves. -/

namespace Sys2Proof

/-- The `LEN` field of an instruction's word is the number of payload bytes it comes with (R70, R72). -/
theorem lenField_encode : ∀ i : Instr, (lenField (encode i)).toNat = i.payloadLen
  | .nop => Laws.LengthField.nop
  | .encfg n => Laws.LengthField.encfg n
  | .rfwd k => Laws.LengthField.rfwd k
  | .rinv k => Laws.LengthField.rinv k
  | .raln k => Laws.LengthField.raln k
  | .refl => Laws.LengthField.refl
  | .plug => Laws.LengthField.plug
  | .fchain => Laws.LengthField.fchain
  | .ichain => Laws.LengthField.ichain
  | .erst => Laws.LengthField.erst
  | .estep => Laws.LengthField.estep
  | .estrm n => Laws.LengthField.estrm n
  | .enige n => Laws.LengthField.enige n
  | .enigd n => Laws.LengthField.enigd n
  | .pack il n => Laws.LengthField.pack il n
  | .unpack il => Laws.LengthField.unpack il
  | .xkey n => Laws.LengthField.xkey n
  | .xenc => Laws.LengthField.xenc
  | .xdec => Laws.LengthField.xdec
  | .xxenc il n => Laws.LengthField.xxenc il n
  | .xxdec il n => Laws.LengthField.xxdec il n
  | .cfbcfg n => Laws.LengthField.cfbcfg n
  | .cfbenc n => Laws.LengthField.cfbenc n
  | .cfbdec n => Laws.LengthField.cfbdec n

end Sys2Proof

namespace Sys2Proof.Machine

/-- A transaction is whole when its payload is as long as the `LEN` field of its word says (R70). -/
theorem command_wf_iff {c : Command} : c.wf = true ↔ c.payload.length = (lenField c.word).toNat := beq_iff_eq

/-- An instruction's payload fits when it is as long as the row or the `LEN` operand says (R72). -/
theorem instr_wf_iff {i : Instr} {payload : List Byte} : i.wf payload = true ↔ payload.length = i.payloadLen :=
  beq_iff_eq

/-- The transaction of an instruction with a payload that fits it is whole. -/
theorem wf_of_encode {i : Instr} {payload : List Byte} (h : i.wf payload = true) :
    Command.wf ⟨encode i, payload⟩ = true := by
  rw [command_wf_iff, lenField_encode]
  exact instr_wf_iff.1 h

/-- What the assembler makes of a line: the payload is the items, and it fits the instruction (R82). -/
theorem assemble_eq_some {mk : BitVec 20 → Instr} {items : List Item} {c : Command}
    (h : assemble mk items = some c) :
    (mk (BitVec.ofNat 20 (payloadOf items).length)).wf (payloadOf items) = true ∧
      c = ⟨encode (mk (BitVec.ofNat 20 (payloadOf items).length)), payloadOf items⟩ := by
  simpa [assemble, eq_comm (b := c)] using h

/-- `E_ILLEGAL` leaves the state written out from R222. -/
theorem raise_illegal_eq_softEnd (s : State) : s.raise .illegal = softEnd s 5#4 := by
  simp [State.raise, State.endCommand, softEnd, Err.code, Err.isFatal]

/-- An illegal word with its whole payload in hand ends with `E_ILLEGAL` (R76, R227). -/
theorem execIllegal_ready {len : BitVec 20} {s : State} (hf : s.status.fatal = false)
    (hlen : s.din.length = len.toNat) : execIllegal len s = .next (softEnd s 5#4) := by
  rw [execIllegal, runCommand_ready hf hlen rfl, State.finish_error, raise_illegal_eq_softEnd]

end Sys2Proof.Machine
end

section
/-! The statements of 30_encoding. -/

namespace Sys2Proof.Machine

/-- Settles O1: `decode` checks in each field what `encode` puts there. -/
theorem decodeAndEncodeAgree : Obligations.DecodeAndEncodeAgree := by
  unfold Obligations.DecodeAndEncodeAgree
  intro w i
  exact decode_ok_iff

/-- Settles O2: a decoded word is the encoding of its instruction, whose row and operand fields it therefore has. -/
theorem decodeFollowsOpcodeMap : Obligations.DecodeFollowsOpcodeMap := by
  unfold Obligations.DecodeFollowsOpcodeMap
  intro w
  refine ⟨?_, fun r hr h => exists_decode_of_selects hr h, decode_error_iff⟩
  intro i hi
  obtain rfl := encode_of_decode hi
  exact ⟨row_mem_opcodeMap i, row_selects_encode i, fun k hk => slotOf_encode hk, fun il hil => ilOf_encode hil,
    fun n hn => lenOf_encode hn⟩

/-- Settles O3: both rows are the row of the one instruction the word decodes to. -/
theorem opcodeRowsNeverOverlap : Obligations.OpcodeRowsNeverOverlap := by
  unfold Obligations.OpcodeRowsNeverOverlap
  intro w r hr r' hr' hsel hsel'
  obtain ⟨i, hi, rfl⟩ := exists_decode_of_selects hr hsel
  obtain ⟨j, hj, rfl⟩ := exists_decode_of_selects hr' hsel'
  obtain rfl : i = j := by simpa [hi] using hj
  rfl

/-- Settles O5: the line's word is an encoding, so it decodes to the instruction, and its `LEN` is the
payload's length. -/
theorem assembledLinesAreTransactions : Obligations.AssembledLinesAreTransactions := by
  unfold Obligations.AssembledLinesAreTransactions
  intro mk items c h
  obtain ⟨hwf, rfl⟩ := assemble_eq_some h
  exact ⟨wf_of_encode hwf, rfl, decode_encode _⟩

/-- Settles O8: no row selects the word, so `decode` refuses it and the accepted transaction ends with `E_ILLEGAL`. -/
theorem illegalWordEndsSoftly : Obligations.IllegalWordEndsSoftly := by
  unfold Obligations.IllegalWordEndsSoftly
  intro s c rest hhost hfatal hwf hnone
  obtain ⟨e, he⟩ := decode_error_iff.2 hnone
  have hend : execIllegal (lenField c.word) ((s.withHost rest).accept c.payload) =
      .next (softEnd ((s.withHost rest).accept c.payload) 5#4) :=
    execIllegal_ready hfatal (command_wf_iff.1 hwf)
  rw [step_command hhost, presentCommand_illegal (s := s.withHost rest) hfatal he, hend]
  rfl

/-- Settles O4: the ten legal words are encodings; the four illegal ones fail the check they are written for. -/
theorem writtenWordsDecode : Obligations.WrittenWordsDecode := by
  unfold Obligations.WrittenWordsDecode
  simp only [decode_ok_iff]
  decide

end Sys2Proof.Machine
end

section
/-! SUPPORT. The lookup commands of the permutation bank: one letter byte in, the letter byte of a function of the state
out (40_permutation_bank R115 to R122). -/

namespace Sys2Proof.Machine

variable {i : Instr} {f : State → Letter → Letter} {s : State}

/-- The function a lookup command applies to its operand (R115, R116, R118 to R121). -/
def lookupOf : Instr → Option (State → Letter → Letter)
  | .rfwd k => some fun s x => s.rotFwd k x
  | .rinv k => some fun s x => s.rotInv k x
  | .refl => some State.reflect
  | .plug => some State.plugOf
  | .fchain => some State.fchain
  | .ichain => some State.ichain
  | _ => none

/-- A lookup command needs the Enigma unit, comes with one byte and has the pseudocode of a lookup. -/
theorem lookupOf_row (h : lookupOf i = some f) :
    i.needs = some .enigma ∧ i.payloadLen = 1 ∧ commandBody i = letterBody f := by
  cases i <;> cases h <;> exact ⟨rfl, rfl, rfl⟩

/-- The instructions R122 lists are the lookup commands. -/
theorem exists_lookupOf
    (h : (∃ k, i = .rfwd k) ∨ (∃ k, i = .rinv k) ∨ i = .refl ∨ i = .plug ∨ i = .fchain ∨ i = .ichain) :
    ∃ f, lookupOf i = some f := by
  rcases h with ⟨k, rfl⟩ | ⟨k, rfl⟩ | rfl | rfl | rfl | rfl <;> exact ⟨_, rfl⟩

/-- The code of a letter's byte, in the statements' spelling, is the letter (R12). -/
@[simp] theorem letterCode_byteOfLetter (x : Letter) : letterCode (byteOfLetter x) = some x :=
  letterCode_letterByte x

@[simp] theorem letterOperand_byteOfLetter (x : Letter) : letterOperand [byteOfLetter x] = .ok x := by
  simp [letterOperand]

/-- A byte outside 0x61 to 0x7A is no letter operand (R122). -/
theorem letterOperand_nonLetter {b : Byte} (hb : ¬ (0x61#8 ≤ b ∧ b ≤ 0x7A#8)) :
    letterOperand [b] = .error .contract := by
  have hlower : isLower b = false := by simpa [isLower] using hb
  simp [letterOperand, letterCode, hlower]

/-- `E_CONTRACT` leaves the state written out from R223. -/
theorem raise_contract_eq_fatalEnd (s : State) : s.raise .contract = fatalEnd s 4#4 := by
  simp [State.raise, State.endCommand, fatalEnd, Err.code, Err.isFatal]

/-- A lookup of a letter returns the letter byte of its function's value and writes nothing. -/
theorem exec_lookup (hi : lookupOf i = some f) {x : Letter} (h : letterReady s x) :
    exec i s = .next (normalEnd s [byteOfLetter (f s x)]) := by
  obtain ⟨hneeds, hlen, hbody⟩ := lookupOf_row hi
  obtain ⟨hfatal, hev, hdin⟩ := h
  have hready : s.ReadyFor i := ⟨hfatal, by rw [hdin, hlen]; rfl⟩
  refine exec_retires hready (by rw [hneeds]; exact hev) ?_
  rw [hbody, hdin, letterBody, letterOperand_byteOfLetter]
  rfl

/-- A lookup of a byte that is no lowercase letter ends with `E_CONTRACT` (R122, R226). -/
theorem exec_lookup_nonLetter (hi : lookupOf i = some f) {b : Byte} (hfatal : s.status.fatal = false)
    (hev : s.status.ev = true) (hdin : s.din = [b]) (hb : ¬ (0x61#8 ≤ b ∧ b ≤ 0x7A#8)) :
    exec i s = .next (fatalEnd s 4#4) := by
  obtain ⟨hneeds, hlen, hbody⟩ := lookupOf_row hi
  have hready : s.ReadyFor i := ⟨hfatal, by rw [hdin, hlen]; rfl⟩
  rw [exec_ready hready (by rw [hneeds]; exact hev), hbody, hdin, letterBody, letterOperand_nonLetter hb,
    State.finish_error, raise_contract_eq_fatalEnd]

end Sys2Proof.Machine
end

section
/-! SUPPORT. Rotors and chains: the two lookups of a rotor are inverse to each other (R101, R102, R123). -/

namespace Sys2Proof.Machine

variable {s : State} {k : Slot}

/-- The forward lookup is the one R101 writes out. -/
theorem rotFwd_eq_forwardOf (s : State) (k : Slot) (x : Letter) : s.rotFwd k x = forwardOf s k x := rfl

theorem rotInv_rotFwd (h : s.rw[k].toList.Nodup) (x : Letter) : s.rotInv k (s.rotFwd k x) = x := by
  rw [State.rotInv, State.rotFwd, indexIn_getElem h, subLetter_addLetter]

theorem rotFwd_rotInv (h : s.rw[k].toList.Nodup) (x : Letter) : s.rotFwd k (s.rotInv k x) = x := by
  obtain ⟨i, rfl⟩ := exists_index h x
  simp only [State.rotInv, State.rotFwd, indexIn_getElem h, addLetter_subLetter]

theorem rotFwd_bijective (h : s.rw[k].toList.Nodup) : Function.Bijective (s.rotFwd k) :=
  Function.bijective_iff_has_inverse.2 ⟨s.rotInv k, rotInv_rotFwd h, rotFwd_rotInv h⟩

theorem ichain_fchain (h : wiringsDistinct s) (x : Letter) : s.ichain (s.fchain x) = x := by
  rw [State.ichain, State.fchain, rotInv_rotFwd (h 0), rotInv_rotFwd (h 1), rotInv_rotFwd (h 2)]

theorem fchain_ichain (h : wiringsDistinct s) (x : Letter) : s.fchain (s.ichain x) = x := by
  rw [State.ichain, State.fchain, rotFwd_rotInv (h 2), rotFwd_rotInv (h 1), rotFwd_rotInv (h 0)]

/-- A table with no repeats is a permutation of the letters. -/
theorem table_bijective {t : Table} (h : t.toList.Nodup) : Function.Bijective fun i : Letter => t[i] :=
  Finite.injective_iff_bijective.1 (table_injective h)

end Sys2Proof.Machine
end

section
/-! SUPPORT. The plugboard, pair by pair (R106, R107). -/

namespace Sys2Proof.Machine

variable {mode : PlugOverlap} {t u : Table} {pairs : List (Letter × Letter)}

@[simp] theorem identityTable_getElem (i : Letter) : identityTable[i] = i := by
  revert i; decide

/-- The last pair of the string is applied last (R106). -/
theorem buildPlug_append (mode : PlugOverlap) (pairs : List (Letter × Letter)) (p : Letter × Letter) :
    buildPlug mode (pairs ++ [p]) = applyPair mode (buildPlug mode pairs) p := by
  simp [buildPlug]

/-- Exchanging by index exchanges the entries at the two letters of the pair (R107). -/
theorem applyPair_indexExchange_eq_ite (t : Table) (a b i : Letter) :
    (applyPair .indexExchange t (a, b))[i] = if i = a then t[b] else if i = b then t[a] else t[i] := by
  simp only [applyPair_indexExchange, Equiv.swap_apply_def]
  split_ifs <;> rfl

/-- Assigning writes the two entries of the pair (R107). -/
theorem applyPair_assign (t : Table) (p : Letter × Letter) (i : Letter) :
    (applyPair .assign t p)[i] = if i = p.2 then p.1 else if i = p.1 then p.2 else t[i] := by
  simp only [applyPair, Fin.getElem_fin, Vector.getElem_set, Fin.ext_iff, eq_comm]

/-- Where the two letters of a pair are still fixed and no other letter goes to them, the three readings do the same:
they swap the pair (R106). -/
theorem applyPair_of_fixed (hinj : Function.Injective fun i : Letter => t[i]) {a b : Letter} (ha : t[a] = a)
    (hb : t[b] = b) (mode : PlugOverlap) (i : Letter) :
    (applyPair mode t (a, b))[i] = if i = a then b else if i = b then a else t[i] := by
  have hia : t[i] = a ↔ i = a := by rw [← hinj.eq_iff (a := i) (b := a)]; simp only [ha]
  have hib : t[i] = b ↔ i = b := by rw [← hinj.eq_iff (a := i) (b := b)]; simp only [hb]
  cases mode with
  | indexExchange => rw [applyPair_indexExchange_eq_ite, ha, hb]
  | assign => rw [applyPair_assign]; split_ifs <;> simp_all
  | valueExchange => simp only [applyPair_valueExchange, Equiv.swap_apply_def, hia, hib]

/-- `t` swaps the two letters of each pair and leaves every other letter (R106). -/
structure SwapsPairs (pairs : List (Letter × Letter)) (t : Table) : Prop where
  swaps : ∀ q ∈ pairs, t[q.1] = q.2 ∧ t[q.2] = q.1
  fixes : ∀ x : Letter, (∀ q ∈ pairs, x ≠ q.1 ∧ x ≠ q.2) → t[x] = x

/-- A letter is one of a pair, or in no pair. -/
theorem mem_pair_or (pairs : List (Letter × Letter)) (x : Letter) :
    (∃ q ∈ pairs, x = q.1 ∨ x = q.2) ∨ ∀ q ∈ pairs, x ≠ q.1 ∧ x ≠ q.2 := by
  by_cases h : ∃ q ∈ pairs, x = q.1 ∨ x = q.2
  · exact .inl h
  · exact .inr (by simpa using h)

theorem SwapsPairs.involutive (h : SwapsPairs pairs t) (x : Letter) : t[t[x]] = x := by
  rcases mem_pair_or pairs x with ⟨q, hq, rfl | rfl⟩ | hx
  · simp only [h.swaps q hq]
  · simp only [h.swaps q hq]
  · simp only [h.fixes x hx]

theorem SwapsPairs.injective (h : SwapsPairs pairs t) : Function.Injective fun i : Letter => t[i] :=
  Function.LeftInverse.injective (g := fun i : Letter => t[i]) h.involutive

/-- The pairs say what the table is. -/
theorem SwapsPairs.unique (h : SwapsPairs pairs t) (h' : SwapsPairs pairs u) : t = u := by
  have hentry : ∀ x : Letter, t[x] = u[x] := by
    intro x
    rcases mem_pair_or pairs x with ⟨q, hq, rfl | rfl⟩ | hx
    · rw [(h.swaps q hq).1, (h'.swaps q hq).1]
    · rw [(h.swaps q hq).2, (h'.swaps q hq).2]
    · rw [h.fixes x hx, h'.fixes x hx]
  exact Vector.ext fun i hi => hentry ⟨i, hi⟩

theorem swapsPairs_nil : SwapsPairs [] identityTable where
  swaps := by simp
  fixes x _ := identityTable_getElem x

/-- One more pair of new letters is swapped too, under every reading (R106). -/
theorem SwapsPairs.append_pair (h : SwapsPairs pairs t) {a b : Letter} (hab : a ≠ b)
    (ha : ∀ q ∈ pairs, a ≠ q.1 ∧ a ≠ q.2) (hb : ∀ q ∈ pairs, b ≠ q.1 ∧ b ≠ q.2) (mode : PlugOverlap) :
    SwapsPairs (pairs ++ [(a, b)]) (applyPair mode t (a, b)) where
  swaps q hq := by
    simp only [applyPair_of_fixed h.injective (h.fixes a ha) (h.fixes b hb)]
    rcases List.mem_append.1 hq with hq | hq
    · obtain ⟨ha1, ha2⟩ := ha q hq
      obtain ⟨hb1, hb2⟩ := hb q hq
      simp [ha1.symm, ha2.symm, hb1.symm, hb2.symm, h.swaps q hq]
    · obtain rfl := List.mem_singleton.1 hq
      simp [hab.symm]
  fixes x hx := by
    obtain ⟨hxa, hxb⟩ := hx (a, b) (by simp)
    rw [applyPair_of_fixed h.injective (h.fixes a ha) (h.fixes b hb), if_neg hxa, if_neg hxb]
    exact h.fixes x fun q hq => hx q (List.mem_append_left _ hq)

/-- The plugboard of disjoint pairs swaps them, under every reading (R106). -/
theorem buildPlug_swapsPairs (mode : PlugOverlap) {pairs : List (Letter × Letter)}
    (h : (pairs.flatMap fun q => [q.1, q.2]).Nodup) : SwapsPairs pairs (buildPlug mode pairs) := by
  induction pairs using List.reverseRecOn with
  | nil => exact swapsPairs_nil
  | append_singleton pairs p ih =>
    rw [List.flatMap_append, List.nodup_append] at h
    obtain ⟨hpairs, hp, hdisjoint⟩ := h
    have hnew : ∀ x, x = p.1 ∨ x = p.2 → ∀ q ∈ pairs, x ≠ q.1 ∧ x ≠ q.2 := by
      intro x hx q hq
      have hmem : ∀ y, y = q.1 ∨ y = q.2 → y ≠ x := fun y hy =>
        hdisjoint y (List.mem_flatMap.2 ⟨q, hq, by simpa using hy⟩) x (by simpa using hx)
      exact ⟨(hmem _ (.inl rfl)).symm, (hmem _ (.inr rfl)).symm⟩
    rw [buildPlug_append]
    exact (ih hpairs).append_pair (by simpa using hp) (hnew _ (.inl rfl)) (hnew _ (.inr rfl)) mode

end Sys2Proof.Machine
end

section
/-! SUPPORT. The tokens of the plugboard string (R112), byte by byte. -/

namespace Sys2Proof.Machine

variable {b : Byte} {g : List Byte} {ts : List (List Byte)}

theorem mem_ws_iff (b : Byte) : b ∈ Config.ws ↔ isSeparator b := by
  simp [Config.ws, isSeparator]

@[simp] theorem plugTokens_nil : plugTokens [] = [] := by
  simp [plugTokens]

/-- A separator in front adds no token. -/
theorem plugTokens_cons_separator (hb : isSeparator b) (g : List Byte) : plugTokens (b :: g) = plugTokens g := by
  rw [← mem_ws_iff] at hb
  simp [plugTokens, List.splitOnP_cons_eq_if_modifyHead, hb]

/-- A byte in front of the end or of a separator is a token of its own. -/
theorem plugTokens_cons_alone (hb : ¬ isSeparator b) (hg : ∀ c, g.head? = some c → isSeparator c) :
    plugTokens (b :: g) = [b] :: plugTokens g := by
  rw [← mem_ws_iff] at hb
  cases g with
  | nil => simp [plugTokens, List.splitOnP_cons_eq_if_modifyHead, hb]
  | cons c g =>
    have hc := (mem_ws_iff c).2 (hg c rfl)
    simp [plugTokens, List.splitOnP_cons_eq_if_modifyHead, hb, hc]

/-- A byte in front of a token makes that token longer. -/
theorem plugTokens_cons_extend {c : Byte} (hb : ¬ isSeparator b) (hc : ¬ isSeparator c) (g : List Byte) :
    ∃ t ts, plugTokens (c :: g) = t :: ts ∧ plugTokens (b :: c :: g) = (b :: t) :: ts := by
  rw [← mem_ws_iff] at hb hc
  obtain ⟨u, us, hu⟩ := List.exists_cons_of_ne_nil (List.splitOnP_ne_nil (fun b => decide (b ∈ Config.ws)) g)
  refine ⟨c :: u, us.filter fun t => !t.isEmpty, ?_, ?_⟩ <;>
  simp [plugTokens, List.splitOnP_cons_eq_if_modifyHead, hb, hc, hu]

theorem Tokenises.cons_separator (hb : isSeparator b) (h : Tokenises g ts) : Tokenises (b :: g) ts := by
  cases h with
  | none sep hsep => exact .none (b :: g) (List.forall_mem_cons.2 ⟨hb, hsep⟩)
  | cons sep t rest ts hsep ht hrun hrest h =>
    exact .cons (b :: sep) t rest ts (List.forall_mem_cons.2 ⟨hb, hsep⟩) ht hrun hrest h

theorem Tokenises.cons_alone (hb : ¬ isSeparator b) (hg : ∀ c, g.head? = some c → isSeparator c)
    (h : Tokenises g ts) : Tokenises (b :: g) ([b] :: ts) :=
  .cons [] [b] g ts (by simp) (by simp) (by simpa using hb) hg h

/-- Where the string begins outside `WS`, its first byte begins the first token. -/
theorem Tokenises.cons_extend {c : Byte} {t : List Byte} (hb : ¬ isSeparator b) (hc : ¬ isSeparator c)
    (h : Tokenises (c :: g) (t :: ts)) : Tokenises (b :: c :: g) ((b :: t) :: ts) := by
  generalize hwhole : c :: g = whole at h
  cases h with
  | cons sep t rest ts hsep ht hrun hrest h =>
    cases sep with
    | nil => exact .cons [] (b :: t) rest ts (by simp) (by simp) (List.forall_mem_cons.2 ⟨hb, hrun⟩) hrest h
    | cons d sep =>
      obtain rfl : c = d := by simpa using congrArg List.head? hwhole
      exact absurd (hsep c (by simp)) hc

end Sys2Proof.Machine
end

section
/-! SUPPORT. The checks of `ENCFG` read backwards (R80, R110 to R112): a check succeeds with a value exactly where the
payload holds the bytes of that value. -/

namespace Sys2Proof.Machine

/-- Where `f` is inverse to `g`, mapping `f` over a list succeeds exactly on a list mapped by `g`. -/
theorem mapM_eq_some_iff {α β : Type} {f : α → Option β} {g : β → α} (h : ∀ a b, f a = some b ↔ a = g b)
    (l : List α) (m : List β) : l.mapM f = some m ↔ l = m.map g := by
  induction l generalizing m with
  | nil => cases m <;> simp
  | cons a l ih => cases m <;> simp [List.mapM_cons, Option.bind_eq_some_iff, h, ih]

theorem letterOfNat_eq_some_iff (n : Nat) (x : Letter) : letterOfNat n = some x ↔ n = x.val := by
  simp only [letterOfNat, Option.dite_none_right_eq_some, Option.some.injEq, Fin.ext_iff]
  exact ⟨fun ⟨_, h⟩ => h, fun h => ⟨h ▸ x.isLt, h⟩⟩

/-- A byte has the code `x` exactly when it is the byte of `x` (R12). -/
theorem letterCode_eq_some_iff (b : Byte) (x : Letter) : letterCode b = some x ↔ b = byteOfLetter x := by
  refine ⟨fun h => ?_, fun h => h ▸ letterCode_byteOfLetter x⟩
  simp only [letterCode, Option.ite_none_right_eq_some, letterOfNat_eq_some_iff, isLower, Bool.and_eq_true,
    decide_eq_true_eq, BitVec.le_def] at h
  apply BitVec.eq_of_toNat_eq
  simp [byteOfLetter] at h ⊢
  omega

/-- The byte that holds a notch or a start (R111). -/
def positionByteOf (x : Letter) : Byte := BitVec.ofNat 8 x.val

theorem letterOfNat_toNat_eq_some_iff (b : Byte) (x : Letter) :
    letterOfNat b.toNat = some x ↔ b = positionByteOf x := by
  rw [letterOfNat_eq_some_iff, positionByteOf, ← BitVec.toNat_inj, BitVec.toNat_ofNat,
    Nat.mod_eq_of_lt (by omega)]

/-- The bytes of a wiring (R80). -/
def wiringBytes (t : Table) : List Byte := t.toList.map byteOfLetter

@[simp] theorem wiringBytes_length (t : Table) : (wiringBytes t).length = 26 := by simp [wiringBytes]

theorem wiringTable_eq_some_iff (w : List Byte) (t : Table) :
    wiringTable w = some t ↔ w = wiringBytes t ∧ t.toList.Nodup := by
  constructor
  · intro h
    refine ⟨?_, wiringTable_nodup h⟩
    unfold wiringTable at h
    split at h
    · cases h
    · rename_i cs hcs
      split at h
      · split at h <;> cases h
        exact (mapM_eq_some_iff letterCode_eq_some_iff w cs).1 hcs
      · cases h
  · rintro ⟨rfl, hnodup⟩
    have hcodes := (mapM_eq_some_iff letterCode_eq_some_iff (wiringBytes t) t.toList).2 rfl
    have harray : t.toList.toArray = t.toArray := Array.toArray_toList
    simp [wiringTable, hcodes, hnodup, harray]

/-- The two bytes of a pair of letters (R112). -/
def pairBytes (q : Letter × Letter) : List Byte := [byteOfLetter q.1, byteOfLetter q.2]

theorem plugPair_eq_some_iff (t : List Byte) (q : Letter × Letter) : plugPair t = some q ↔ t = pairBytes q := by
  unfold plugPair pairBytes
  split
  · simp [Option.bind_eq_some_iff, letterCode_eq_some_iff, Prod.ext_iff]
  · rename_i hne
    simpa using fun h => hne _ _ h

theorem plugPairs_eq_some_iff (g : List Byte) (pairs : List (Letter × Letter)) :
    plugPairs g = some pairs ↔ plugTokens g = pairs.map pairBytes :=
  mapM_eq_some_iff plugPair_eq_some_iff _ _

/-! Fields at an offset of the payload. -/

/-- One field after another. -/
theorem append_prefix_iff (a b l : List Byte) : a ++ b <+: l ↔ a <+: l ∧ b <+: l.drop a.length := by
  constructor
  · rintro ⟨t, rfl⟩
    exact ⟨⟨b ++ t, by simp⟩, ⟨t, by simp⟩⟩
  · rintro ⟨⟨t, rfl⟩, h⟩
    exact (List.prefix_append_right_inj a).2 (by simpa using h)

theorem slice_eq_iff_prefix {i j : Nat} {a : List Byte} (h : j - i = a.length) (din : List Byte) :
    slice i j din = a ↔ a <+: din.drop i := by
  rw [slice, h, List.prefix_iff_eq_take, eq_comm]

theorem positionByte_eq_some_iff (din : List Byte) (i : Nat) (x : Letter) :
    positionByte din i = some x ↔ [positionByteOf x] <+: din.drop i := by
  simp [positionByte, Option.bind_eq_some_iff, letterOfNat_toNat_eq_some_iff,
    List.singleton_prefix_iff_head?_eq_some]

/-- The bytes of a rotor field: wiring, notch, start (R80). -/
def rotorBytes (r : RotorField) : List Byte :=
  wiringBytes r.wiring ++ [positionByteOf r.notch] ++ [positionByteOf r.start]

@[simp] theorem rotorBytes_length (r : RotorField) : (rotorBytes r).length = 28 := by simp [rotorBytes]

theorem rotorField_eq_some_iff (din : List Byte) (k : Nat) (r : RotorField) :
    rotorField din k = some r ↔ r.wiring.toList.Nodup ∧ rotorBytes r <+: din.drop (26 + 28 * k) := by
  have hwiring : ∀ w, wiringTable (slice (26 + 28 * k) (52 + 28 * k) din) = some w ↔
      wiringBytes w <+: din.drop (26 + 28 * k) ∧ w.toList.Nodup := fun w => by
    rw [wiringTable_eq_some_iff, slice_eq_iff_prefix (by simp; omega)]
  have hnotch : 26 + 28 * k + 26 = 52 + 28 * k := by omega
  have hstart : 26 + 28 * k + 27 = 53 + 28 * k := by omega
  simp only [rotorField, Option.bind_eq_some_iff, Option.map_eq_some_iff, hwiring, positionByte_eq_some_iff,
    rotorBytes, append_prefix_iff, List.drop_drop, List.length_append, wiringBytes_length, List.length_singleton,
    hnotch, hstart]
  constructor
  · rintro ⟨w, ⟨hw, hnodup⟩, n, hn, p, hp, rfl⟩
    exact ⟨hnodup, ⟨hw, hn⟩, hp⟩
  · rintro ⟨hnodup, ⟨hw, hn⟩, hp⟩
    exact ⟨r.wiring, ⟨hw, hnodup⟩, r.notch, hn, r.start, hp, rfl⟩

/-- The four wirings of a record have no repeats (R110). -/
def EnigmaRecord.Distinct (r : EnigmaRecord) : Prop :=
  r.ref.toList.Nodup ∧ r.rotor0.wiring.toList.Nodup ∧ r.rotor1.wiring.toList.Nodup ∧ r.rotor2.wiring.toList.Nodup

/-- The fixed part of the `ENCFG` payload: the first 110 bytes (R80). -/
def recordBytes (r : EnigmaRecord) : List Byte :=
  wiringBytes r.ref ++ rotorBytes r.rotor0 ++ rotorBytes r.rotor1 ++ rotorBytes r.rotor2

@[simp] theorem recordBytes_length (r : EnigmaRecord) : (recordBytes r).length = 110 := by simp [recordBytes]

/-- `ENCFG` accepts exactly the fixed part of a record with distinct wirings, followed by a string of its pairs. -/
theorem enigmaRecord_eq_some_iff (din : List Byte) (r : EnigmaRecord) :
    enigmaRecord din = some r ↔
      r.Distinct ∧ recordBytes r <+: din ∧ plugTokens (din.drop 110) = r.pairs.map pairBytes := by
  have href : ∀ w, wiringTable (slice 0 26 din) = some w ↔ wiringBytes w <+: din ∧ w.toList.Nodup := fun w => by
    rw [wiringTable_eq_some_iff, slice_eq_iff_prefix (by simp), List.drop_zero]
  simp only [EnigmaRecord.Distinct, recordBytes, append_prefix_iff, List.length_append, wiringBytes_length,
    rotorBytes_length]
  constructor
  · intro h
    have hdistinct := enigmaRecord_nodup h
    unfold enigmaRecord at h
    split at h
    · cases h
    · simp only [Option.bind_eq_some_iff, Option.map_eq_some_iff, href, rotorField_eq_some_iff,
        plugPairs_eq_some_iff] at h
      obtain ⟨ref, ⟨hr, -⟩, r0, ⟨-, h0⟩, r1, ⟨-, h1⟩, r2, ⟨-, h2⟩, ps, hps, rfl⟩ := h
      exact ⟨hdistinct, ⟨⟨⟨hr, h0⟩, h1⟩, h2⟩, hps⟩
  · rintro ⟨⟨dr, d0, d1, d2⟩, ⟨⟨⟨hr, h0⟩, h1⟩, h2⟩, hps⟩
    have hlen : ¬ din.length < 110 := by
      have hle := h2.length_le
      rw [rotorBytes_length, List.length_drop] at hle
      omega
    have e0 := (rotorField_eq_some_iff din 0 r.rotor0).2 ⟨d0, h0⟩
    have e1 := (rotorField_eq_some_iff din 1 r.rotor1).2 ⟨d1, h1⟩
    have e2 := (rotorField_eq_some_iff din 2 r.rotor2).2 ⟨d2, h2⟩
    simp [enigmaRecord, hlen, (href _).2 ⟨hr, dr⟩, e0, e1, e2, (plugPairs_eq_some_iff _ _).2 hps]

/-- The record of the values `EncfgPayload` names (R80). -/
def recordOf (r w0 w1 w2 : Table) (n p : Vector Letter 3) (pairs : List (Letter × Letter)) : EnigmaRecord where
  ref := r
  rotor0 := { wiring := w0, notch := n[0], start := p[0] }
  rotor1 := { wiring := w1, notch := n[1], start := p[1] }
  rotor2 := { wiring := w2, notch := n[2], start := p[2] }
  pairs := pairs

/-- The layout of R80, as the statements write it, is the fixed part of the record and then the pair string. -/
theorem encfgPayload_iff_recordBytes {r w0 w1 w2 : Table} {n p : Vector Letter 3} {pairs : List (Letter × Letter)}
    {din : List Byte} :
    EncfgPayload r w0 w1 w2 n p pairs din ↔
      (recordOf r w0 w1 w2 n p pairs).Distinct ∧
        ∃ g, plugTokens g = pairs.map pairBytes ∧ din = recordBytes (recordOf r w0 w1 w2 n p pairs) ++ g := by
  have hpair : pairBytes = fun q => [byteOfLetter q.1, byteOfLetter q.2] := rfl
  simp [EncfgPayload, EnigmaRecord.Distinct, recordOf, recordBytes, rotorBytes, wiringBytes, positionByteOf, hpair]

/-- The payloads R80 and R110 to R112 describe are the ones the checks of `ENCFG` accept. -/
theorem encfgPayload_iff {r w0 w1 w2 : Table} {n p : Vector Letter 3} {pairs : List (Letter × Letter)}
    {din : List Byte} :
    EncfgPayload r w0 w1 w2 n p pairs din ↔ enigmaRecord din = some (recordOf r w0 w1 w2 n p pairs) := by
  rw [encfgPayload_iff_recordBytes, enigmaRecord_eq_some_iff]
  refine and_congr Iff.rfl ⟨?_, ?_⟩
  · rintro ⟨g, hg, rfl⟩
    exact ⟨List.prefix_append _ _, by rw [List.drop_left' (recordBytes_length _)]; exact hg⟩
  · rintro ⟨⟨g, rfl⟩, hg⟩
    rw [List.drop_left' (recordBytes_length _)] at hg
    exact ⟨g, hg, rfl⟩

/-- A vector of three entries is its entries. -/
theorem vector_three_eta (v : Vector Letter 3) : #v[v[0], v[1], v[2]] = v := by
  ext i hi
  interval_cases i <;> rfl

/-- `E_CONFIG` leaves the state written out from R222. -/
theorem raise_config_eq_softEnd (s : State) : s.raise .config = softEnd s 1#4 := by
  simp [State.raise, State.endCommand, softEnd, Err.code, Err.isFatal]

end Sys2Proof.Machine
end

section
/-! The statements of 40_permutation_bank. -/

namespace Sys2Proof.Machine

/-- Settles O25: the pseudocode of `NOP` writes nothing and returns nothing. -/
theorem nopOnlyCounts : Obligations.NopOnlyCounts := by
  unfold Obligations.NopOnlyCounts
  intro s hready
  exact exec_retires hready rfl rfl

/-- Settles O26: both commands are lookups, of the forward lookup and of its inverse. -/
theorem rotorLookupResults : Obligations.RotorLookupResults := by
  unfold Obligations.RotorLookupResults
  intro s k x hready
  have hforward := exec_lookup (i := .rfwd k) (f := fun s x => s.rotFwd k x) rfl hready
  have hinverse := exec_lookup (i := .rinv k) (f := fun s x => s.rotInv k x) rfl hready
  rw [rotFwd_eq_forwardOf] at hforward
  exact ⟨hforward, fun hdistinct => ⟨_, rotInv_isInverse hdistinct x, hinverse⟩⟩

/-- Settles O27: the byte returned is the model's alignment, which is the one R103 writes out. -/
theorem alignmentResult : Obligations.AlignmentResult := by
  unfold Obligations.AlignmentResult
  intro s k hready hev
  have hend : exec (.raln k) s = .next (normalEnd s [if s.aligned k then 0x01#8 else 0x00#8]) :=
    exec_retires hready hev rfl
  simp only [aligned_iff] at hend
  exact ⟨fun h => by rw [hend, if_pos h], fun h => by rw [hend, if_neg h]⟩

/-- Settles O28: both commands are lookups in a table. -/
theorem reflectorAndPlugboardResults : Obligations.ReflectorAndPlugboardResults := by
  unfold Obligations.ReflectorAndPlugboardResults
  intro s x hready
  exact ⟨exec_lookup (f := State.reflect) rfl hready, exec_lookup (f := State.plugOf) rfl hready⟩

/-- Settles O29: both commands are lookups, of the forward chain and of the inverse chain, slot by slot. -/
theorem chainResults : Obligations.ChainResults := by
  unfold Obligations.ChainResults
  intro s x hready
  have hforward := exec_lookup (i := .fchain) (f := State.fchain) rfl hready
  have hinverse := exec_lookup (i := .ichain) (f := State.ichain) rfl hready
  simp only [State.fchain, rotFwd_eq_forwardOf] at hforward
  exact ⟨hforward, fun hdistinct => ⟨_, _, _, rotInv_isInverse (hdistinct 0) _, rotInv_isInverse (hdistinct 1) _,
    rotInv_isInverse (hdistinct 2) _, hinverse⟩⟩

/-- Settles O30: the six commands are the lookups, and the byte is no letter operand. -/
theorem nonLetterOperandIsFatal : Obligations.NonLetterOperandIsFatal := by
  unfold Obligations.NonLetterOperandIsFatal
  intro s b i hi hfatal hev hdin hb
  obtain ⟨f, hf⟩ := exists_lookupOf hi
  exact exec_lookup_nonLetter hf hfatal hev hdin hb

/-- Settles O31: the invariant says that the tables have no repeats. -/
theorem rotorsAndChainsInvert : Obligations.RotorsAndChainsInvert := by
  unfold Obligations.RotorsAndChainsInvert
  intro s hinv hev
  obtain ⟨hwirings, href⟩ := hinv.tables hev
  exact ⟨fun k => rotInv_rotFwd (hwirings k), fun k => rotFwd_rotInv (hwirings k),
    fun k => rotFwd_bijective (hwirings k), fun x => ⟨ichain_fchain hwirings x, fchain_ichain hwirings x⟩,
    table_bijective href, fun hmode => table_bijective (hinv.plugboard hev (by simp [hmode]))⟩

/-- Settles O32: the described payloads are those the checks accept, and the rest are refused before any write. -/
theorem encfgConstructsOrRefuses : Obligations.EncfgConstructsOrRefuses := by
  unfold Obligations.EncfgConstructsOrRefuses
  intro s len hready
  refine ⟨fun r w0 w1 w2 n p pairs hpayload => ?_, fun hnone => ?_⟩
  · have hbody : commandBody (.encfg len) s s.din =
        .ok (s.configureEnigma (recordOf r w0 w1 w2 n p pairs), []) := by
      simp only [commandBody, encfgPayload_iff.1 hpayload]
    rw [exec_retires hready rfl hbody]
    simp only [State.configureEnigma, recordOf, vector_three_eta]
  · have hrecord : enigmaRecord s.din = none := by
      by_contra hsome
      obtain ⟨r, hr⟩ := Option.ne_none_iff_exists'.1 hsome
      exact hnone ⟨r.ref, r.rotor0.wiring, r.rotor1.wiring, r.rotor2.wiring,
        #v[r.rotor0.notch, r.rotor1.notch, r.rotor2.notch], #v[r.rotor0.start, r.rotor1.start, r.rotor2.start],
        r.pairs, encfgPayload_iff.2 hr⟩
    have hbody : commandBody (.encfg len) s s.din = .error .config := by simp only [commandBody, hrecord]
    rw [exec_ready hready rfl, hbody, State.finish_error, raise_config_eq_softEnd]

/-- Settles O33, by induction on the string: a byte in front is a separator, a token of its own, or the new first
byte of the first token. -/
theorem plugTokensAreMaximalRuns : Obligations.PlugTokensAreMaximalRuns := by
  unfold Obligations.PlugTokensAreMaximalRuns
  intro g
  induction g with
  | nil =>
    rw [plugTokens_nil]
    exact .none [] (by simp)
  | cons b g ih =>
    by_cases hb : isSeparator b
    · rw [plugTokens_cons_separator hb]
      exact ih.cons_separator hb
    by_cases hg : ∀ c, g.head? = some c → isSeparator c
    · rw [plugTokens_cons_alone hb hg]
      exact ih.cons_alone hb hg
    cases g with
    | nil => simp at hg
    | cons c g =>
      have hc : ¬ isSeparator c := by simpa using hg
      obtain ⟨t, ts, hrest, hwhole⟩ := plugTokens_cons_extend hb hc g
      rw [hrest] at ih
      rw [hwhole]
      exact ih.cons_extend hb hc

/-- Settles O34: under every reading the plugboard swaps the pairs, and that says the whole table. -/
theorem disjointPairsAreSwapped : Obligations.DisjointPairsAreSwapped := by
  unfold Obligations.DisjointPairsAreSwapped
  intro mode pairs hdisjoint
  have h := buildPlug_swapsPairs mode hdisjoint
  exact ⟨h.swaps, h.fixes, h.involutive, fun mode' => (buildPlug_swapsPairs mode' hdisjoint).unique h⟩

/-- Settles O35: the last pair is applied to the plugboard of the others; the string `ab bc` is evaluated. -/
theorem reusedLetterReadings : Obligations.ReusedLetterReadings := by
  unfold Obligations.ReusedLetterReadings
  refine ⟨fun mode i => identityTable_getElem i, fun pairs a b i => ⟨?_, ?_, ?_⟩, ?_⟩
  · rw [buildPlug_append, applyPair_indexExchange_eq_ite]
  · rw [buildPlug_append, applyPair_assign]
  · rw [buildPlug_append, applyPair_valueExchange, Equiv.swap_apply_def]
  · decide +kernel

end Sys2Proof.Machine
end

section
/-! SUPPORT. Stepping, slot by slot and many steps at once (41_rotor_fsm_enigma R131, R143): it
depends on the wiring and the positions, and it keeps the wiring. -/

namespace Sys2Proof.Machine

variable {s t : State}

theorem afterStep_slot0_moves (h : alignedAt s 0 ∨ alignedAt s 1) :
    (afterStep s).pos[0].val = (s.pos[0].val + 1) % 26 :=
  congrArg Fin.val (if_pos h)

theorem afterStep_slot0_stays (h : ¬ (alignedAt s 0 ∨ alignedAt s 1)) : (afterStep s).pos[0] = s.pos[0] :=
  if_neg h

theorem afterStep_slot1_moves (h : alignedAt s 1 ∨ alignedAt s 2) :
    (afterStep s).pos[1].val = (s.pos[1].val + 1) % 26 :=
  congrArg Fin.val (if_pos h)

theorem afterStep_slot1_stays (h : ¬ (alignedAt s 1 ∨ alignedAt s 2)) : (afterStep s).pos[1] = s.pos[1] :=
  if_neg h

theorem afterStep_slot2 (s : State) : (afterStep s).pos[2].val = (s.pos[2].val + 1) % 26 := rfl

theorem afterSteps_succ (s : State) (j : Nat) : afterSteps s (j + 1) = afterStep (afterSteps s j) :=
  Function.iterate_succ_apply' afterStep j s

theorem afterSteps_add (s : State) (j k : Nat) : afterSteps s (j + k) = afterSteps (afterSteps s j) k := by
  rw [Nat.add_comm]
  exact Function.iterate_add_apply afterStep k j s

/-- The fast rotor turns once a step (R143). -/
theorem afterSteps_slot2 (s : State) (j : Nat) : (afterSteps s j).pos[2].val = (s.pos[2].val + j) % 26 := by
  induction j with
  | zero => exact (Nat.mod_eq_of_lt s.pos[2].isLt).symm
  | succ j ih =>
    rw [afterSteps_succ, afterStep_slot2, ih]
    omega

/-- Stepping leaves the wiring as it is (R131). -/
theorem SameWiring.steps (h : SameWiring s t) (j : Nat) : SameWiring s (afterSteps t j) := by
  induction j with
  | zero => exact h
  | succ j ih =>
    rw [afterSteps_succ]
    exact ⟨ih.rw, ih.notch, ih.ref, ih.plg⟩

/-- With the same wiring and positions now, the positions are the same many steps on (R131). -/
theorem SameWiring.afterSteps_pos (h : SameWiring s t) (hpos : s.pos = t.pos) (j : Nat) :
    (afterSteps s j).pos = (afterSteps t j).pos := by
  induction j generalizing s t with
  | zero => exact hpos
  | succ j ih =>
    have hstep := stepRotors_pos_congr h.notch hpos
    simp only [stepRotors_eq_afterStep] at hstep
    exact ih (s := afterStep s) (t := afterStep t) ⟨h.rw, h.notch, h.ref, h.plg⟩ hstep

end Sys2Proof.Machine
end

section
/-! SUPPORT. The Enigma stream of a message in two pieces (R136), and the stream of a stream (R141). -/

namespace Sys2Proof.Machine

variable {s t : State}

theorem foldLetters_append (d e : List Byte) : foldLetters (d ++ e) = foldLetters d ++ foldLetters e :=
  List.filterMap_append

/-- The stream as a whole: the positions move one step a letter, and nothing else is written (R135). -/
theorem enigmaStream_eq (s : State) (d : List Byte) :
    enigmaStream s d =
      ({ s with pos := (afterSteps s (foldLetters d).length).pos }, (enigmaStream s d).2) := by
  rw [← enigmaStream_state, ← enigmaStream_frame]

/-- The second piece of a message is streamed from where the first leaves the positions (R136). -/
theorem enigmaStream_append_out (s : State) (d e : List Byte) :
    (enigmaStream s (d ++ e)).2 =
      (enigmaStream s d).2 ++ (enigmaStream (afterSteps s (foldLetters d).length) e).2 := by
  rw [← enigmaStream_state]
  induction d generalizing s with
  | nil => rfl
  | cons b d ih =>
    cases hb : streamLetter b with
    | none => simp only [List.cons_append, enigmaStream_cons_none hb, ih]
    | some x => simp only [List.cons_append, enigmaStream_cons_some hb, ih]

/-- So it is from any state with the same wiring at those positions. -/
theorem SameWiring.enigmaStream_resume_out (h : SameWiring t s) (d e : List Byte)
    (hpos : t.pos = (afterSteps s (foldLetters d).length).pos) :
    (enigmaStream s (d ++ e)).2 = (enigmaStream s d).2 ++ (enigmaStream t e).2 := by
  rw [enigmaStream_append_out, (h.steps (foldLetters d).length).enigmaStream_out hpos]

/-- The second piece leaves the positions where the whole message does (R136). -/
theorem SameWiring.afterSteps_resume_pos (h : SameWiring t s) (d e : List Byte)
    (hpos : t.pos = (afterSteps s (foldLetters d).length).pos) :
    (afterSteps s (foldLetters (d ++ e)).length).pos = (afterSteps t (foldLetters e).length).pos := by
  rw [foldLetters_append, List.length_append, afterSteps_add,
    (h.steps (foldLetters d).length).afterSteps_pos hpos]

/-- What R141 asks of the tables: wirings without repeats, an involutive reflector and an involutive plugboard. -/
structure Reciprocal (s : State) : Prop where
  wirings : wiringsDistinct s
  reflector : ∀ x : Letter, s.ref[s.ref[x]] = x
  plugboard : ∀ x : Letter, s.plg[s.plg[x]] = x

theorem Reciprocal.stepRotors (h : Reciprocal s) : Reciprocal s.stepRotors :=
  ⟨h.wirings, h.reflector, h.plugboard⟩

/-- At one setting of the positions the path of a letter leads back (R134, R141). -/
theorem Reciprocal.substitute_substitute (h : Reciprocal s) (x : Letter) : s.substitute (s.substitute x) = x := by
  simp only [State.substitute, State.plugOf, State.reflect, h.plugboard, fchain_ichain h.wirings, h.reflector,
    ichain_fchain h.wirings]

/-- Each byte the stream returns is a letter of the stream again (R135). -/
theorem streamLetter_letterByte (x : Letter) : streamLetter (letterByte x) = some x := by
  revert x; decide

/-- The stream of a stream from the same positions is the folded message (R141). -/
theorem Reciprocal.enigmaStream_enigmaStream (h : Reciprocal s) (m : List Byte) :
    (enigmaStream s (enigmaStream s m).2).2 = foldLetters m := by
  rw [foldLetters_eq_map]
  induction m generalizing s with
  | nil => rfl
  | cons b m ih =>
    cases hb : streamLetter b with
    | none => rw [enigmaStream_cons_none hb, streamLetters_cons_none hb, ih h]
    | some x =>
      rw [enigmaStream_cons_some hb, enigmaStream_cons_some (streamLetter_letterByte _), streamLetters_cons_some hb,
        h.stepRotors.substitute_substitute, ih h.stepRotors]
      rfl

end Sys2Proof.Machine
end

section
/-! SUPPORT. How the three stream commands end (R136, R139, R140), for the payload in hand and for a message
presented with its own length. -/

namespace Sys2Proof.Machine

variable {s t : State} {i : Instr} {d : List Byte}

/-- `ESTRM` retires with the stream from the present positions (R136). -/
theorem exec_estrm {len : BitVec 20} (hready : s.ReadyFor (.estrm len)) (hev : s.status.ev = true) :
    exec (.estrm len) s =
      .next (normalEnd { s with pos := (afterSteps s (foldLetters s.din).length).pos } (enigmaStream s s.din).2) :=
  exec_retires hready hev (congrArg Except.ok (enigmaStream_eq s s.din))

/-- `ENIGE` and `ENIGD` retire with the stream from the start positions (R139, R140). -/
theorem exec_enigmaCall {len : BitVec 20} (hi : i = .enige len ∨ i = .enigd len) (hfatal : s.status.fatal = false)
    (hlen : s.din.length = len.toNat) (hev : s.status.ev = true) :
    exec i s =
      .next (normalEnd { s with pos := (afterSteps s.loadStart (foldLetters s.din).length).pos }
        (enigmaStream s.loadStart s.din).2) := by
  have hend := congrArg (Except.ok (ε := Err)) (enigmaStream_eq s.loadStart s.din)
  rcases hi with rfl | rfl
  · exact exec_retires ⟨hfatal, hlen⟩ hev hend
  · exact exec_retires ⟨hfatal, hlen⟩ hev hend

/-- What is left by a stream of `d` from the positions of `s`, as far as a later stream command can tell (R37). -/
structure StreamEnd (s : State) (d : List Byte) (t : State) : Prop where
  wiring : SameWiring t s
  start : t.start = s.start
  flags : t.status = { s.status with err := 0#4 }
  pos : t.pos = (afterSteps s (foldLetters d).length).pos
  dout : t.dout = (enigmaStream s d).2

/-- That the message lies in `DIN` makes no difference to its stream. -/
theorem normalEnd_streamEnd (s : State) (d : List Byte) :
    StreamEnd s d
      (normalEnd { s with din := d, pos := (afterSteps { s with din := d } (foldLetters d).length).pos }
        (enigmaStream { s with din := d } d).2) where
  wiring := ⟨rfl, rfl, rfl, rfl⟩
  start := rfl
  flags := rfl
  pos := SameWiring.afterSteps_pos (s := { s with din := d }) (t := s) ⟨rfl, rfl, rfl, rfl⟩ rfl _
  dout := SameWiring.enigmaStream_out (s := { s with din := d }) (t := s) ⟨rfl, rfl, rfl, rfl⟩ rfl d

/-- A message of fewer than 2^20 bytes has its length as `LEN` (R70). -/
theorem length_eq_toNat_ofNat (h : d.length < 2 ^ 20) : d.length = (BitVec.ofNat 20 d.length).toNat :=
  (Nat.mod_eq_of_lt h).symm

theorem exec_estrm_message (hfatal : s.status.fatal = false) (hev : s.status.ev = true)
    (hlen : d.length < 2 ^ 20) :
    ∃ t, exec (.estrm (BitVec.ofNat 20 d.length)) { s with din := d } = .next t ∧ StreamEnd s d t :=
  ⟨_, exec_estrm (s := { s with din := d }) ⟨hfatal, length_eq_toNat_ofNat hlen⟩ hev, normalEnd_streamEnd s d⟩

theorem exec_enigmaCall_message
    (hi : i = .enige (BitVec.ofNat 20 d.length) ∨ i = .enigd (BitVec.ofNat 20 d.length))
    (hfatal : s.status.fatal = false) (hev : s.status.ev = true) (hlen : d.length < 2 ^ 20) :
    ∃ t, exec i { s with din := d } = .next t ∧ StreamEnd s.loadStart d t :=
  ⟨_, exec_enigmaCall (s := { s with din := d }) hi hfatal (length_eq_toNat_ofNat hlen) hev,
    normalEnd_streamEnd s.loadStart d⟩

/-- After a stream command the block still takes commands of the Enigma unit. -/
theorem StreamEnd.fatal (h : StreamEnd s d t) (hfatal : s.status.fatal = false) :
    t.status.fatal = false := by
  rw [h.flags]; exact hfatal

theorem StreamEnd.ev (h : StreamEnd s d t) (hev : s.status.ev = true) :
    t.status.ev = true := by
  rw [h.flags]; exact hev

theorem StreamEnd.err (h : StreamEnd s d t) : t.status.err = 0#4 := by
  rw [h.flags]

/-- An Enigma call after an Enigma call starts where the first one did (R40). -/
theorem StreamEnd.loadStart_sameWiring (h : StreamEnd s d t) :
    SameWiring t.loadStart s.loadStart :=
  ⟨h.wiring.rw, h.wiring.notch, h.wiring.ref, h.wiring.plg⟩

end Sys2Proof.Machine
end

section
/-! The statements of 41_rotor_fsm_enigma. -/

namespace Sys2Proof.Machine

/-- Settles O36: the positions after `ESTEP` are those of R131 written out, slot by slot. -/
theorem stepTransition : Obligations.StepTransition := by
  unfold Obligations.StepTransition
  intro s hready hev
  refine ⟨(afterStep s).pos, ?_, afterStep_slot0_moves, afterStep_slot0_stays, afterStep_slot1_moves,
    afterStep_slot1_stays, afterStep_slot2 s⟩
  rw [← stepRotors_eq_afterStep, ← stepRotors_eq]
  exact exec_retires hready hev rfl

/-- Settles O37: the pseudocode of `ERST` loads the start positions. -/
theorem erstLoadsStart : Obligations.ErstLoadsStart := by
  unfold Obligations.ErstLoadsStart
  intro s hready hev
  exact exec_retires hready hev rfl

/-- Settles O39: both commands retire with the stream from the start positions. -/
theorem enigmaCallResults : Obligations.EnigmaCallResults := by
  unfold Obligations.EnigmaCallResults
  intro s len hfatal hlen hev
  exact ⟨(enigmaStream s.loadStart s.din).2, enigmaStream_out_length s.loadStart s.din,
    fun h => enigmaStream_isStream (s := s.loadStart) h s.din, fun i hi => exec_enigmaCall hi hfatal hlen hev⟩

/-- Settles O40: `ESTRM` finds the tables and the positions that the stream of the first piece leaves. -/
theorem splitMessageContinues : Obligations.SplitMessageContinues := by
  unfold Obligations.SplitMessageContinues
  intro s d e hfatal hev hlen
  have hlen' : (d ++ e).length < 2 ^ 20 := by simpa using hlen
  obtain ⟨t1, hexec1, h1⟩ := exec_enigmaCall_message (d := d) (.inl rfl) hfatal hev (by omega)
  obtain ⟨t2, hexec2, h2⟩ := exec_estrm_message (s := t1) (d := e) (h1.fatal hfatal) (h1.ev hev) (by omega)
  obtain ⟨t, hexec, h⟩ := exec_enigmaCall_message (.inl rfl) hfatal hev hlen'
  refine ⟨t1, t2, t, hexec1, hexec2, hexec, ?_, ?_⟩
  · rw [h.dout, h1.dout, h2.dout]
    exact h1.wiring.enigmaStream_resume_out d e h1.pos
  · rw [h.pos, h2.pos]
    exact h1.wiring.afterSteps_resume_pos d e h1.pos

/-- Settles O41: the fast rotor turns once for each letter, from its start position. -/
theorem fastRotorCountsLetters : Obligations.FastRotorCountsLetters := by
  unfold Obligations.FastRotorCountsLetters
  intro s len i hi hfatal hlen hev
  exact ⟨_, exec_enigmaCall hi hfatal hlen hev, afterSteps_slot2 s.loadStart (foldLetters s.din).length⟩

/-- Settles O42: both commands stream from the start positions, and the stream of a stream is the folded message. -/
theorem enigmaIsSelfInverse : Obligations.EnigmaIsSelfInverse := by
  unfold Obligations.EnigmaIsSelfInverse
  intro s m hfatal hev hlen hwirings href hplg
  have hreciprocal : Reciprocal s.loadStart := ⟨hwirings, href, hplg⟩
  obtain ⟨t1, hexec1, h1⟩ := exec_enigmaCall_message (.inl rfl) hfatal hev hlen
  have hlen1 : t1.dout.length < 2 ^ 20 := by
    rw [h1.dout]
    exact lt_of_le_of_lt (enigmaStream_length_le s.loadStart m) hlen
  obtain ⟨t2, hexec2, h2⟩ := exec_enigmaCall_message (s := t1) (.inr rfl) (h1.fatal hfatal) (h1.ev hev) hlen1
  refine ⟨t1, t2, hexec1, hexec2, h2.err, ?_⟩
  rw [h2.dout, h1.loadStart_sameWiring.enigmaStream_out h1.start, h1.dout]
  exact hreciprocal.enigmaStream_enigmaStream m

end Sys2Proof.Machine
end

section
/-! SUPPORT. The word packer byte by byte (42_word_packer R151 to R155): where each byte of the words stands, and the
two functions from bytes to words and back without the length, composed both ways. -/

namespace Sys2Proof.Machine

@[simp] theorem bytesOfWord_length (w : Word) : (bytesOfWord w).length = 4 := rfl

/-- Byte `j` of a word is its bits `[8j+7 : 8j]` (R55). -/
theorem bytesOfWord_getElem? (w : Word) {j : Nat} (hj : j < 4) :
    (bytesOfWord w)[j]? = some (w.extractLsb' (8 * j) 8) := by
  interval_cases j <;> rfl

@[simp] theorem dataBytes_nil : dataBytes [] = [] := rfl

@[simp] theorem dataBytes_cons (a : Word) (w : List Word) : dataBytes (a :: w) = bytesOfWord a ++ dataBytes w :=
  List.flatMap_cons

/-- Byte `j` of word `i` is returned at `4i + j`: it is in the first four bytes, or four further on than without the
first word (R152). -/
theorem dataBytes_getElem? {w : List Word} {i j : Nat} (hi : i < w.length) (hj : j < 4) :
    (dataBytes w)[4 * i + j]? = some ((w.getD i 0#32).extractLsb' (8 * j) 8) := by
  induction w generalizing i with
  | nil => simp at hi
  | cons a w ih =>
    rw [dataBytes_cons]
    cases i with
    | zero =>
      rw [Nat.mul_zero, Nat.zero_add, List.getElem?_append_left hj, bytesOfWord_getElem? a hj, List.getD_cons_zero]
    | succ i =>
      have hpast : 4 * (i + 1) + j - (bytesOfWord a).length = 4 * i + j := by rw [bytesOfWord_length]; omega
      rw [List.getElem?_append_right (by rw [bytesOfWord_length]; omega), hpast, ih (Nat.lt_of_succ_lt_succ hi),
        List.getD_cons_succ]

/-- The bytes the model makes of words are the bytes of the words (R152). -/
theorem dataBytes_isBytesOf (w : List Word) : IsBytesOf w (dataBytes w) :=
  ⟨dataBytes_length w, fun _ hi _ hj => dataBytes_getElem? hi hj⟩

/-- The zero bytes that fill the last word of `b` (R151). -/
def zeroPadding (b : List Byte) : List Byte := List.replicate ((4 - b.length % 4) % 4) 0#8

/-- Four bytes in front do not change the padding. -/
theorem zeroPadding_cons_four (b0 b1 b2 b3 : Byte) (rest : List Byte) :
    zeroPadding (b0 :: b1 :: b2 :: b3 :: rest) = zeroPadding rest :=
  congrArg (fun r => List.replicate ((4 - r) % 4) 0#8) (Nat.add_mod_right rest.length 4)

/-- Packed and unpacked, a byte string comes back with its padding (R155). -/
theorem dataBytes_dataWords (b : List Byte) : dataBytes (dataWords b) = b ++ zeroPadding b := by
  induction b using dataWords.induct with
  | case1 => rfl
  | case2 b0 => rw [dataWords, dataBytes_cons, bytesOfWord_wordOfBytes]; rfl
  | case3 b0 b1 => rw [dataWords, dataBytes_cons, bytesOfWord_wordOfBytes]; rfl
  | case4 b0 b1 b2 => rw [dataWords, dataBytes_cons, bytesOfWord_wordOfBytes]; rfl
  | case5 b0 b1 b2 b3 rest ih =>
    rw [dataWords, dataBytes_cons, bytesOfWord_wordOfBytes, ih, zeroPadding_cons_four]
    rfl

/-- Unpacked and packed, words come back (R155). -/
theorem dataWords_dataBytes (w : List Word) : dataWords (dataBytes w) = w := by
  induction w with
  | nil => rfl
  | cons a w ih =>
    calc dataWords (dataBytes (a :: w))
        = wordOfBytes (a.extractLsb' 0 8) (a.extractLsb' 8 8) (a.extractLsb' 16 8) (a.extractLsb' 24 8) ::
            dataWords (dataBytes w) := rfl
      _ = a :: w := by rw [wordOfBytes_bytesOfWord, ih]

/-- The padding reads as the zeros past the end of the string. -/
theorem getD_of_append_zeroPadding {b : List Byte} {k : Nat} {x : Byte} (h : (b ++ zeroPadding b)[k]? = some x) :
    b.getD k 0#8 = x := by
  rcases lt_or_ge k b.length with hk | hk
  · rw [List.getElem?_append_left hk] at h
    rw [List.getD_eq_getElem?_getD, h, Option.getD_some]
  · rw [List.getElem?_append_right hk] at h
    rw [List.getD_eq_default _ _ hk]
    exact (List.eq_of_mem_replicate (List.mem_of_getElem? h)).symm

/-- The data words are the packed bytes: they have the bytes that unpacking them gives (R151). -/
theorem dataWords_isPacked (b : List Byte) : IsPacked b (dataWords b) := by
  refine ⟨dataWords_length b, fun i hi j hj => (getD_of_append_zeroPadding ?_).symm⟩
  rw [← dataBytes_dataWords, dataBytes_getElem? hi hj]

end Sys2Proof.Machine
end

section
/-! SUPPORT. The length word (42_word_packer R151 to R154), and how `UNPACK` ends (R157). -/

namespace Sys2Proof.Machine

variable {w : List Word} {m : Word}

/-- The data words, then the length word exactly when `il` = 1 (R151). -/
theorem bytesToWords_eq (b : List Byte) (il : Bool) : bytesToWords b il = dataWords b ++ lengthWord il b := by
  cases il with
  | false => exact (List.append_nil _).symm
  | true => rfl

theorem wordsToBytes_false (w : List Word) : wordsToBytes w false = some (dataBytes w) := rfl

/-- An empty array has no length word (R153). -/
theorem wordsToBytes_true_nil : wordsToBytes [] true = none := rfl

/-- With `il` = 1 the last word is taken for the length of the bytes before it (R152 to R154). -/
theorem wordsToBytes_true_concat (w : List Word) (m : Word) :
    wordsToBytes (w ++ [m]) true =
      if 4 * (w.length : Int) - 3 ≤ (m.toNat : Int) ∧ (m.toNat : Int) ≤ 4 * (w.length : Int) then
        some ((dataBytes w).take m.toNat)
      else none := by
  simp [wordsToBytes]

/-- A length word in its window strips the bytes past the length (R152, R153). -/
theorem wordsToBytes_true_inWindow (h : inWindow w.length m) :
    wordsToBytes (w ++ [m]) true = some ((dataBytes w).take m.toNat) :=
  (wordsToBytes_true_concat w m).trans (if_pos h)

/-- A length word outside its window is corrupt (R153, R154). -/
theorem wordsToBytes_true_not_inWindow (h : ¬ inWindow w.length m) : wordsToBytes (w ++ [m]) true = none :=
  (wordsToBytes_true_concat w m).trans (if_neg h)

/-- The length word of a string is in the window over its data words; 32 bits hold it (R155). -/
theorem inWindow_dataWords {b : List Byte} (h : b.length < 2 ^ 32) :
    inWindow (dataWords b).length (BitVec.ofNat 32 b.length) := by
  rw [inWindow, dataWords_length, BitVec.toNat_ofNat, Nat.mod_eq_of_lt h]
  omega

/-- `E_CORRUPT` leaves the state written out from R222. -/
theorem raise_corrupt_eq_softEnd (s : State) : s.raise .corrupt = softEnd s 2#4 := by
  simp [State.raise, State.endCommand, softEnd, Err.code, Err.isFatal]

/-- `UNPACK` returns the bytes there are (R157). -/
theorem exec_unpack_of_some {s : State} {il : Bool} {out : List Byte} (hready : s.ReadyFor (.unpack il))
    (h : wordsToBytes s.v il = some out) : exec (.unpack il) s = .next (normalEnd s out) :=
  exec_retires hready rfl (by simp only [commandBody, h])

/-- On a corrupt array `UNPACK` ends with `E_CORRUPT` (R157). -/
theorem exec_unpack_of_none {s : State} {il : Bool} (hready : s.ReadyFor (.unpack il))
    (h : wordsToBytes s.v il = none) : exec (.unpack il) s = .next (softEnd s 2#4) := by
  have hbody : commandBody (.unpack il) s s.din = .error .corrupt := by simp only [commandBody, h]
  rw [exec_ready hready rfl, hbody, State.finish_error, raise_corrupt_eq_softEnd]

end Sys2Proof.Machine
end

section
/-! The statements of 42_word_packer. -/

namespace Sys2Proof.Machine

/-- Settles O43: the pseudocode of `PACK` writes the data words, which are the packed bytes, and the length word. -/
theorem packResult : Obligations.PackResult := by
  unfold Obligations.PackResult
  intro s il len hready
  refine ⟨dataWords s.din, dataWords_isPacked s.din, ?_⟩
  rw [← bytesToWords_eq]
  exact exec_retires hready rfl rfl

/-- Settles O44: without the length all bytes are returned; with it the array is empty, or its last word is in the
window or not. -/
theorem unpackResult : Obligations.UnpackResult := by
  unfold Obligations.UnpackResult
  intro s hfatal hdin
  have hready (il : Bool) : s.ReadyFor (.unpack il) := ⟨hfatal, by rw [hdin]; rfl⟩
  refine ⟨⟨dataBytes s.v, dataBytes_isBytesOf s.v, exec_unpack_of_some (hready false) (wordsToBytes_false s.v)⟩,
    fun hempty => exec_unpack_of_none (hready true) (by rw [hempty, wordsToBytes_true_nil]),
    fun w m hv => ⟨fun hwin => ⟨dataBytes w, dataBytes_isBytesOf w, ?_⟩, fun hwin => ?_⟩⟩
  · exact exec_unpack_of_some (hready true) (by rw [hv, wordsToBytes_true_inWindow hwin])
  · exact exec_unpack_of_none (hready true) (by rw [hv, wordsToBytes_true_not_inWindow hwin])

/-- Settles O45: the bytes of the data words are the string and its padding, which the length word strips; and the
data words of the bytes of words are the words. -/
theorem packerRoundTrips : Obligations.PackerRoundTrips := by
  unfold Obligations.PackerRoundTrips
  refine ⟨fun b hb => ⟨?_, ?_⟩, fun w b hbytes => ?_⟩
  · have hlen : b.length < 2 ^ 32 := by omega
    have hword : (BitVec.ofNat 32 b.length).toNat = b.length := by
      rw [BitVec.toNat_ofNat, Nat.mod_eq_of_lt hlen]
    calc wordsToBytes (bytesToWords b true) true
        = some ((dataBytes (dataWords b)).take (BitVec.ofNat 32 b.length).toNat) :=
          wordsToBytes_true_inWindow (inWindow_dataWords hlen)
      _ = some b := by rw [hword, dataBytes_dataWords, List.take_left]
  · exact congrArg some (dataBytes_dataWords b)
  · obtain rfl : dataBytes w = b := Option.some.inj hbytes
    exact dataWords_dataBytes w

end Sys2Proof.Machine
end

section
/-! SUPPORT. The mixing function (43_xxtea_core R173) and one update `U(r, p)` of the array with its inverse (R176). -/

namespace Sys2Proof.Machine

variable {v : List Word}

/-- The key index of the model is `(p AND 3) XOR e` (R173). -/
theorem keyIndex_val (p : Nat) (e : BitVec 2) : (keyIndex p e).val = (p &&& 3) ^^^ e.toNat := by
  have hlow : p &&& 3 = p % 4 := Nat.and_two_pow_sub_one_eq_mod p 2
  rw [hlow]
  exact BitVec.toNat_xor (BitVec.ofNat 2 p) e

/-- The key word of the model is the word at that index. -/
theorem key_getElem_keyIndex (k : Key) (p : Nat) (e : BitVec 2) :
    k[keyIndex p e] = k.toList.getD ((p &&& 3) ^^^ e.toNat) 0#32 := by
  rw [← keyIndex_val, List.getD_eq_getElem _ _ (by simp)]
  simp

/-- The model's MX is R173 written out. -/
theorem mx_eq_mixOf (sum y z : Word) (p : Nat) (e : BitVec 2) (k : Key) : mx sum y z p e k = mixOf sum y z p e k := by
  rw [mx, mixOf, key_getElem_keyIndex]

/-- `sum` in round `r`: `r · DELTA mod 2^32` (R174). -/
def roundSum (r : Nat) : Word := BitVec.ofNat 32 r * Config.delta

theorem roundSum_succ (r : Nat) : roundSum (r + 1) = roundSum r + Config.delta := by
  rw [roundSum, roundSum, BitVec.ofNat_add, BitVec.add_mul, BitVec.one_mul]

/-- What the update at `rp` adds to its word and the inverse update subtracts: MX of the two neighbours (R176). -/
def mixAt (k : Key) (v : List Word) (rp : Nat × Nat) : Word :=
  mx (roundSum rp.1) (wordAt v ((rp.2 + 1) % v.length)) (wordAt v ((rp.2 + v.length - 1) % v.length)) rp.2
    (sumE (roundSum rp.1)) k

theorem updateAt_eq (k : Key) (v : List Word) (rp : Nat × Nat) :
    updateAt k v rp = v.set rp.2 (wordAt v rp.2 + mixAt k v rp) := by
  rw [mixAt, mx_eq_mixOf]; rfl

theorem undoAt_eq (k : Key) (v : List Word) (rp : Nat × Nat) :
    undoAt k v rp = v.set rp.2 (wordAt v rp.2 - mixAt k v rp) := by
  rw [mixAt, mx_eq_mixOf]; rfl

@[simp] theorem updateAt_length (k : Key) (v : List Word) (rp : Nat × Nat) : (updateAt k v rp).length = v.length := by
  rw [updateAt_eq, List.length_set]

@[simp] theorem undoAt_length (k : Key) (v : List Word) (rp : Nat × Nat) : (undoAt k v rp).length = v.length := by
  rw [undoAt_eq, List.length_set]

/-- The array with the word at `p` beside it, as the sweeps of R174 and R175 carry `z` and `y` along. -/
def withWordAt (p : Nat) (v : List Word) : List Word × Word := (v, wordAt v p)

@[simp] theorem withWordAt_fst (p : Nat) (v : List Word) : (withWordAt p v).1 = v := rfl

/-- A word just written is the one that goes with its array. -/
theorem withWordAt_set {p : Nat} (hp : p < v.length) (w : Word) : withWordAt p (v.set p w) = (v.set p w, w) := by
  rw [withWordAt, wordAt_set_self hp]

/-- A forward update that is given the neighbours of `p` is `U(r, p)`, and hands on the word it wrote. -/
theorem encUpdate_eq_updateAt (k : Key) (r : Nat) {p : Nat} (hp : p < v.length) :
    encUpdate k (roundSum r) p (wordAt v ((p + 1) % v.length)) (withWordAt ((p + v.length - 1) % v.length) v) =
      withWordAt p (updateAt k v (r, p)) := by
  rw [updateAt_eq, withWordAt_set hp]; rfl

/-- An inverse update that is given the neighbours of `p` is `U⁻(r, p)`, and hands on the word it wrote. -/
theorem decUpdate_eq_undoAt (k : Key) (r : Nat) {p : Nat} (hp : p < v.length) :
    decUpdate k (roundSum r) p (wordAt v ((p + v.length - 1) % v.length)) (withWordAt ((p + 1) % v.length) v) =
      withWordAt p (undoAt k v (r, p)) := by
  rw [undoAt_eq, withWordAt_set hp]; rfl

end Sys2Proof.Machine
end

section
/-! SUPPORT. The sweeps of the two transforms are sequences of updates (43_xxtea_core R174 to R176). -/

namespace Sys2Proof.Machine

variable {v : List Word} {n : Nat}

/-- The updates of round `r` on `N` words, in order (R176). -/
def sweepOrder (N r : Nat) : List (Nat × Nat) := (List.range N).map fun p => (r, p)

/-- The updates of round `r` at 1 to `m`, in order. -/
def upperSweep (m r : Nat) : List (Nat × Nat) := (List.range m).map fun i => (r, i + 1)

theorem sweepOrder_succ_last (m r : Nat) : sweepOrder (m + 1) r = sweepOrder m r ++ [(r, m)] := by
  simp [sweepOrder, List.range_succ]

theorem sweepOrder_succ_first (m r : Nat) : sweepOrder (m + 1) r = (r, 0) :: upperSweep m r := by
  simp [sweepOrder, upperSweep, List.range_succ_eq_map]

theorem upperSweep_succ_last (m r : Nat) : upperSweep (m + 1) r = upperSweep m r ++ [(r, m + 1)] := by
  simp [upperSweep, List.range_succ]

/-- The updates of the first `r` rounds on `N` words, in order (R176). -/
def roundsOrder (N r : Nat) : List (Nat × Nat) := (List.range r).flatMap fun i => sweepOrder N (i + 1)

theorem updateOrder_eq (N : Nat) : updateOrder N = roundsOrder N (rounds N) := rfl

theorem roundsOrder_succ (N r : Nat) : roundsOrder N (r + 1) = roundsOrder N r ++ sweepOrder N (r + 1) := by
  simp [roundsOrder, List.range_succ]

@[simp] theorem foldl_updateAt_length (k : Key) (l : List (Nat × Nat)) (v : List Word) :
    (l.foldl (updateAt k) v).length = v.length := by
  induction l generalizing v with
  | nil => rfl
  | cons rp l ih => rw [List.foldl_cons, ih, updateAt_length]

@[simp] theorem foldl_undoAt_length (k : Key) (l : List (Nat × Nat)) (v : List Word) :
    (l.foldl (undoAt k) v).length = v.length := by
  induction l generalizing v with
  | nil => rfl
  | cons rp l ih => rw [List.foldl_cons, ih, undoAt_length]

/-- The first `m` updates of a forward sweep: `z` is the word before the next one, the last word at the start. -/
theorem encSweep_eq (k : Key) (r : Nat) (hv : v.length = n + 1) {m : Nat} (hm : m ≤ n) :
    (List.range m).foldl (fun vz p => encUpdate k (roundSum r) p (wordAt vz.1 (p + 1)) vz) (withWordAt n v) =
      withWordAt ((m + n) % (n + 1)) ((sweepOrder m r).foldl (updateAt k) v) := by
  induction m with
  | zero => rw [Nat.zero_add, Nat.mod_eq_of_lt n.lt_succ_self]; rfl
  | succ m ih =>
    have hlen : ((sweepOrder m r).foldl (updateAt k) v).length = n + 1 := by rw [foldl_updateAt_length, hv]
    have hstep := encUpdate_eq_updateAt k r (v := (sweepOrder m r).foldl (updateAt k) v) (p := m) (by omega)
    have hnext : (m + 1) % (n + 1) = m + 1 := Nat.mod_eq_of_lt (by omega)
    have hback : (m + 1 + n) % (n + 1) = m := by
      rw [Nat.add_right_comm, Nat.add_assoc, Nat.add_mod_right, Nat.mod_eq_of_lt (by omega)]
    rw [hlen, hnext] at hstep
    rw [List.range_succ, List.foldl_append, ih (by omega), hback, sweepOrder_succ_last, List.foldl_append]
    exact hstep

/-- A forward round is the updates of its sweep; the last one reads the first word. -/
theorem encRound_eq (k : Key) (r : Nat) (hv : v.length = n + 1) :
    encRound k n (roundSum r) (withWordAt n v) = withWordAt n ((sweepOrder (n + 1) r).foldl (updateAt k) v) := by
  have hlen : ((sweepOrder n r).foldl (updateAt k) v).length = n + 1 := by rw [foldl_updateAt_length, hv]
  have hlast := encUpdate_eq_updateAt k r (v := (sweepOrder n r).foldl (updateAt k) v) (p := n) (by omega)
  rw [hlen, Nat.mod_self] at hlast
  simp only [encRound, encSweep_eq k r hv le_rfl]
  rw [sweepOrder_succ_last, List.foldl_append]
  exact hlast

/-- The last of the forward rounds, taken apart from those before it. -/
theorem encRounds_succ_last (k : Key) (n r : Nat) (sum : Word) (vz : List Word × Word) :
    encRounds k n (r + 1) sum vz = encRound k n (sum + roundSum (r + 1)) (encRounds k n r sum vz) := by
  induction r generalizing sum vz with
  | zero => rfl
  | succ r ih =>
    rw [encRounds, ih, roundSum_succ (r + 1), BitVec.add_comm (roundSum (r + 1)), ← BitVec.add_assoc]
    rfl

/-- The forward rounds from `sum` = 0 are the updates of their sweeps. -/
theorem encRounds_eq (k : Key) (hv : v.length = n + 1) (r : Nat) :
    encRounds k n r Config.sum0 (withWordAt n v) = withWordAt n ((roundsOrder (n + 1) r).foldl (updateAt k) v) := by
  induction r with
  | zero => rfl
  | succ r ih =>
    rw [encRounds_succ_last, ih, Config.sum0, BitVec.zero_add,
      encRound_eq k (r + 1) ((foldl_updateAt_length k _ v).trans hv), roundsOrder_succ, List.foldl_append]

/-- The inverse updates at `m` down to 1: `y` is the word after the next one. -/
theorem decSweep_eq (k : Key) (r : Nat) (hv : v.length = n + 1) {m : Nat} (hm : m ≤ n) :
    (List.range m).foldr (fun i vy => decUpdate k (roundSum r) (i + 1) (wordAt vy.1 i) vy)
        (withWordAt ((m + 1) % (n + 1)) v) =
      withWordAt (1 % (n + 1)) ((upperSweep m r).reverse.foldl (undoAt k) v) := by
  induction m generalizing v with
  | zero => rfl
  | succ m ih =>
    have hstep := decUpdate_eq_undoAt k r (v := v) (p := m + 1) (by omega)
    have hself : (m + 1) % (n + 1) = m + 1 := Nat.mod_eq_of_lt (by omega)
    have hback : (m + 1 + (n + 1) - 1) % (n + 1) = m := by
      rw [Nat.add_right_comm, Nat.add_sub_cancel, Nat.add_mod_right, Nat.mod_eq_of_lt (by omega)]
    rw [hv, hback] at hstep
    have hrest := ih (v := undoAt k v (r, m + 1)) (by rw [undoAt_length, hv]) (by omega)
    rw [hself, ← hstep] at hrest
    rw [List.range_succ, List.foldr_append, upperSweep_succ_last, List.reverse_append, List.foldl_append]
    exact hrest

/-- An inverse round is the inverse updates of its sweep in reverse order; the last one reads the last word. -/
theorem decRound_eq (k : Key) (r : Nat) (hv : v.length = n + 1) :
    decRound k n (roundSum r) (withWordAt 0 v) =
      withWordAt 0 ((sweepOrder (n + 1) r).reverse.foldl (undoAt k) v) := by
  have hlen : ((upperSweep n r).reverse.foldl (undoAt k) v).length = n + 1 := by rw [foldl_undoAt_length, hv]
  have hlast := decUpdate_eq_undoAt k r (v := (upperSweep n r).reverse.foldl (undoAt k) v) (p := 0) (by omega)
  have hsweep := decSweep_eq k r hv le_rfl
  have hn : n % (n + 1) = n := Nat.mod_eq_of_lt n.lt_succ_self
  rw [Nat.mod_self] at hsweep
  rw [hlen, Nat.zero_add, Nat.zero_add, Nat.add_sub_cancel, hn] at hlast
  simp only [decRound, hsweep]
  rw [sweepOrder_succ_first, List.reverse_cons, List.foldl_append]
  exact hlast

/-- The inverse rounds from the `sum` of the last one are the inverse updates of their sweeps in reverse order. -/
theorem decRounds_eq (k : Key) (hv : v.length = n + 1) (r : Nat) :
    decRounds k n r (roundSum r) (withWordAt 0 v) =
      withWordAt 0 ((roundsOrder (n + 1) r).reverse.foldl (undoAt k) v) := by
  induction r generalizing v with
  | zero => rfl
  | succ r ih =>
    have hsum : roundSum (r + 1) - Config.delta = roundSum r := by rw [roundSum_succ, BitVec.add_sub_cancel]
    rw [decRounds, decRound_eq k (r + 1) hv, hsum, ih ((foldl_undoAt_length k _ v).trans hv), roundsOrder_succ,
      List.reverse_append, List.foldl_append]

/-- The rules write `n` for the index of the last word: `N = n + 1` (R172). -/
theorem length_eq_pred_succ (hv : v ≠ []) : v.length = v.length - 1 + 1 :=
  (Nat.sub_add_cancel (List.length_pos_of_ne_nil hv)).symm

/-- `xxtea_encrypt` is the sequence of updates (R176). -/
theorem xxteaEncrypt_eq_forwardUpdates (k : Key) (hv : v ≠ []) : xxteaEncrypt v k = forwardUpdates k v := by
  have hrounds := encRounds_eq k (length_eq_pred_succ hv) (rounds v.length)
  rw [← length_eq_pred_succ hv] at hrounds
  exact congrArg Prod.fst hrounds

/-- `xxtea_decrypt` is the reverse sequence of inverse updates (R176). -/
theorem xxteaDecrypt_eq_inverseUpdates (k : Key) (hv : v ≠ []) : xxteaDecrypt v k = inverseUpdates k v := by
  have hrounds := decRounds_eq k (length_eq_pred_succ hv) (rounds v.length)
  have hsum : Config.sum0 + BitVec.ofNat 32 (rounds v.length) * Config.delta = roundSum (rounds v.length) :=
    BitVec.zero_add _
  rw [← length_eq_pred_succ hv] at hrounds
  simp only [xxteaDecrypt, hsum]
  exact congrArg Prod.fst hrounds

end Sys2Proof.Machine
end

section
/-! SUPPORT. On two words or more an update reads neighbours it does not write, so the updates and the inverse updates
undo each other (43_xxtea_core R176). -/

namespace Sys2Proof.Machine

variable {v : List Word}

/-- Writing word `p` leaves its two neighbours, so it leaves what an update adds there. -/
theorem mixAt_set (k : Key) (h2 : 2 ≤ v.length) {rp : Nat × Nat} (hp : rp.2 < v.length) (w : Word) :
    mixAt k (v.set rp.2 w) rp = mixAt k v rp := by
  have hnext : (rp.2 + 1) % v.length ≠ rp.2 := by
    rcases Nat.lt_or_ge (rp.2 + 1) v.length with h | h
    · rw [Nat.mod_eq_of_lt h]; omega
    · rw [show rp.2 + 1 = v.length by omega, Nat.mod_self]; omega
  have hprev : (rp.2 + v.length - 1) % v.length ≠ rp.2 := by
    rcases Nat.eq_zero_or_pos rp.2 with h | h
    · rw [h, Nat.zero_add, Nat.mod_eq_of_lt (by omega)]; omega
    · rw [show rp.2 + v.length - 1 = rp.2 - 1 + v.length by omega, Nat.add_mod_right, Nat.mod_eq_of_lt (by omega)]
      omega
  rw [mixAt, List.length_set, wordAt_set_ne hnext, wordAt_set_ne hprev]
  rfl

theorem set_wordAt {p : Nat} (hp : p < v.length) : v.set p (wordAt v p) = v := by
  rw [wordAt, List.getD_eq_getElem _ _ hp, List.set_getElem_self]

theorem undoAt_updateAt (k : Key) (h2 : 2 ≤ v.length) {rp : Nat × Nat} (hp : rp.2 < v.length) :
    undoAt k (updateAt k v rp) rp = v := by
  rw [updateAt_eq, undoAt_eq, mixAt_set k h2 hp, wordAt_set_self hp, BitVec.add_sub_cancel, List.set_set, set_wordAt hp]

theorem updateAt_undoAt (k : Key) (h2 : 2 ≤ v.length) {rp : Nat × Nat} (hp : rp.2 < v.length) :
    updateAt k (undoAt k v rp) rp = v := by
  rw [undoAt_eq, updateAt_eq, mixAt_set k h2 hp, wordAt_set_self hp, BitVec.sub_add_cancel, List.set_set, set_wordAt hp]

/-- A sequence of steps is undone by the reverse sequence of inverse steps, where each step is undone by its inverse
and keeps the condition `P` that this needs. -/
theorem foldl_reverse_foldl {α β : Type} {P : β → Prop} {f g : β → α → β} {l : List α}
    (hkeep : ∀ b a, P b → P (f b a)) (hundo : ∀ b, P b → ∀ a ∈ l, g (f b a) a = b) {b : β} (hb : P b) :
    l.reverse.foldl g (l.foldl f b) = b := by
  induction l generalizing b with
  | nil => rfl
  | cons a l ih =>
    have htail := ih (fun b hb a ha => hundo b hb a (List.mem_cons_of_mem _ ha)) (hkeep b a hb)
    rw [List.foldl_cons, List.reverse_cons, List.foldl_append, htail]
    exact hundo b hb a List.mem_cons_self

/-- The updates are at words of the array. -/
theorem lt_of_mem_updateOrder {N : Nat} {rp : Nat × Nat} (h : rp ∈ updateOrder N) : rp.2 < N := by
  obtain ⟨_, -, hrp⟩ := List.mem_flatMap.1 h
  obtain ⟨_, hp, rfl⟩ := List.mem_map.1 hrp
  exact List.mem_range.1 hp

theorem inverseUpdates_forwardUpdates (k : Key) (h2 : 2 ≤ v.length) :
    inverseUpdates k (forwardUpdates k v) = v := by
  rw [inverseUpdates, forwardUpdates, foldl_updateAt_length]
  refine foldl_reverse_foldl (P := fun u => u.length = v.length) (fun u rp hu => ?_) (fun u hu rp hrp => ?_) rfl
  · rw [updateAt_length, hu]
  · exact undoAt_updateAt k (hu ▸ h2) (hu ▸ lt_of_mem_updateOrder hrp)

theorem forwardUpdates_inverseUpdates (k : Key) (h2 : 2 ≤ v.length) :
    forwardUpdates k (inverseUpdates k v) = v := by
  rw [forwardUpdates, inverseUpdates, foldl_undoAt_length]
  have hundo := foldl_reverse_foldl (P := fun u => u.length = v.length) (f := undoAt k) (g := updateAt k)
    (l := (updateOrder v.length).reverse) (b := v) (fun u rp hu => (undoAt_length k u rp).trans hu)
    (fun u hu rp hrp => updateAt_undoAt k (hu ▸ h2) (hu ▸ lt_of_mem_updateOrder (List.mem_reverse.1 hrp))) rfl
  rwa [List.reverse_reverse] at hundo

theorem xxteaDecrypt_xxteaEncrypt (k : Key) (h2 : 2 ≤ v.length) : xxteaDecrypt (xxteaEncrypt v k) k = v := by
  have henc : xxteaEncrypt v k ≠ [] := by rw [← List.length_pos_iff, xxteaEncrypt_length]; omega
  rw [xxteaDecrypt_eq_inverseUpdates k henc, xxteaEncrypt_eq_forwardUpdates k (List.ne_nil_of_length_pos (by omega)),
    inverseUpdates_forwardUpdates k h2]

theorem xxteaEncrypt_xxteaDecrypt (k : Key) (h2 : 2 ≤ v.length) : xxteaEncrypt (xxteaDecrypt v k) k = v := by
  have hdec : xxteaDecrypt v k ≠ [] := by rw [← List.length_pos_iff, xxteaDecrypt_length]; omega
  rw [xxteaEncrypt_eq_forwardUpdates k hdec, xxteaDecrypt_eq_inverseUpdates k (List.ne_nil_of_length_pos (by omega)),
    forwardUpdates_inverseUpdates k h2]

end Sys2Proof.Machine
end

section
/-! SUPPORT. The derived key (43_xxtea_core R171), and how the commands of the Xxtea unit end (R180 to R184). -/

namespace Sys2Proof.Machine

variable {s : State} {len : BitVec 20} {il : Bool} {out : List Byte}

/-- The data words read as the string past its end too: both are zero there (R151). -/
theorem dataWords_getD_byte (b : List Byte) (i : Nat) {j : Nat} (hj : j < 4) :
    ((dataWords b).getD i 0#32).extractLsb' (8 * j) 8 = b.getD (4 * i + j) 0#8 := by
  obtain ⟨hlen, hbytes⟩ := dataWords_isPacked b
  rcases Nat.lt_or_ge i (dataWords b).length with hi | hi
  · exact hbytes i hi j hj
  · rw [List.getD_eq_default _ _ hi, List.getD_eq_default _ _ (by omega)]
    exact BitVec.extractLsb'_zero

/-- The key of the model is the key of R171. -/
theorem deriveKey_isKeyOf (b : List Byte) : IsKeyOf b (deriveKey b) := by
  intro i j hj
  have hword : (deriveKey b)[i] = (dataWords b).getD i.val 0#32 := Vector.getElem_ofFn i.isLt
  rw [hword, dataWords_getD_byte b i.val hj]

/-- Only the raw packing of the empty string is an array of no words (R151). -/
theorem bytesToWords_ne_nil {b : List Byte} (h : b ≠ [] ∨ il = true) : bytesToWords b il ≠ [] := by
  rw [← List.length_pos_iff, bytesToWords_length]
  rcases h with h | rfl
  · have := List.length_pos_of_ne_nil h
    omega
  · exact Nat.succ_pos _

/-- `XENC` retires with the forward transform in the array (R181). -/
theorem exec_xenc (hfatal : s.status.fatal = false) (hxv : s.status.xv = true) (hdin : s.din = []) (hv : s.v ≠ []) :
    exec .xenc s = .next (normalEnd { s with v := xxteaEncrypt s.v s.xk } []) :=
  exec_retires ⟨hfatal, congrArg List.length hdin⟩ hxv (if_neg hv)

/-- `XDEC` retires with the inverse transform in the array (R182). -/
theorem exec_xdec (hfatal : s.status.fatal = false) (hxv : s.status.xv = true) (hdin : s.din = []) (hv : s.v ≠ []) :
    exec .xdec s = .next (normalEnd { s with v := xxteaDecrypt s.v s.xk } []) :=
  exec_retires ⟨hfatal, congrArg List.length hdin⟩ hxv (if_neg hv)

/-- `XXENC` returns the bytes of the transformed array (R183). -/
theorem exec_xxenc (hready : s.ReadyFor (.xxenc il len)) (hxv : s.status.xv = true)
    (hwords : bytesToWords s.din il ≠ []) :
    exec (.xxenc il len) s = .next (normalEnd s (dataBytes (xxteaEncrypt (bytesToWords s.din il) s.xk))) :=
  exec_retires hready hxv (if_neg hwords)

/-- `XXDEC` returns what the words unpack to (R184). -/
theorem exec_xxdec_of_some (hready : s.ReadyFor (.xxdec il len)) (hxv : s.status.xv = true) (hdin : s.din ≠ [])
    (h : wordsToBytes (xxteaDecrypt (bytesToWords s.din false) s.xk) il = some out) :
    exec (.xxdec il len) s = .next (normalEnd s out) :=
  exec_retires hready hxv (by simp only [commandBody, if_neg (bytesToWords_ne_nil (.inl hdin)), h])

/-- Where the words are corrupt, `XXDEC` ends with `E_CORRUPT` (R184). -/
theorem exec_xxdec_of_none (hready : s.ReadyFor (.xxdec il len)) (hxv : s.status.xv = true) (hdin : s.din ≠ [])
    (h : wordsToBytes (xxteaDecrypt (bytesToWords s.din false) s.xk) il = none) :
    exec (.xxdec il len) s = .next (softEnd s 2#4) := by
  have hbody : commandBody (.xxdec il len) s s.din = .error .corrupt := by
    simp only [commandBody, if_neg (bytesToWords_ne_nil (.inl hdin)), h]
  rw [exec_ready hready hxv, hbody, State.finish_error, raise_corrupt_eq_softEnd]

/-- `XXENC` and then `XXDEC` of its result return what the packed message unpacks to, where the array has two words or
more (R176) and the ciphertext fits `LEN` (R185). -/
theorem exec_xxdec_xxenc {b : List Byte} (hfatal : s.status.fatal = false) (hxv : s.status.xv = true)
    (hlen : b.length < 2 ^ 20) (h2 : 2 ≤ (bytesToWords b il).length)
    (hfit : 4 * (bytesToWords b il).length < 2 ^ 20) (hout : wordsToBytes (bytesToWords b il) il = some out) :
    ∃ t1 t2, exec (.xxenc il (BitVec.ofNat 20 b.length)) { s with din := b } = .next t1 ∧
      exec (.xxdec il (BitVec.ofNat 20 t1.dout.length)) { t1 with din := t1.dout } = .next t2 ∧
      t2.status.err = 0#4 ∧ t2.dout = out := by
  have hwords : bytesToWords b il ≠ [] := List.ne_nil_of_length_pos (by omega)
  have henc := exec_xxenc (s := { s with din := b }) ⟨hfatal, length_eq_toNat_ofNat hlen⟩ hxv hwords
  set cipher := dataBytes (xxteaEncrypt (bytesToWords b il) s.xk) with hcipher
  have hcipherLen : cipher.length = 4 * (bytesToWords b il).length := by
    rw [hcipher, dataBytes_length, xxteaEncrypt_length]
  have hcipherFit : cipher.length < 2 ^ 20 := by omega
  have hcipherNonempty : cipher ≠ [] := List.ne_nil_of_length_pos (by omega)
  have hcipherWords : bytesToWords cipher false = xxteaEncrypt (bytesToWords b il) s.xk := dataWords_dataBytes _
  refine ⟨_, _, henc, exec_xxdec_of_some (s := { normalEnd { s with din := b } cipher with din := cipher })
    ⟨hfatal, length_eq_toNat_ofNat hcipherFit⟩ hxv hcipherNonempty ?_, rfl, rfl⟩
  calc wordsToBytes (xxteaDecrypt (bytesToWords cipher false) s.xk) il
      = wordsToBytes (bytesToWords b il) il := by rw [hcipherWords, xxteaDecrypt_xxteaEncrypt s.xk h2]
    _ = some out := hout

end Sys2Proof.Machine
end

section
/-! The statements of 43_xxtea_core. -/

namespace Sys2Proof.Machine

/-- Settles O46: the pseudocode of `XKEY` writes the derived key, which is the key of R171, and the valid flag. -/
theorem xkeyResult : Obligations.XkeyResult := by
  unfold Obligations.XkeyResult
  intro s len hready
  exact ⟨deriveKey s.din, deriveKey_isKeyOf s.din, exec_retires hready rfl rfl⟩

/-- Settles O47: the key index of the model is the one of R173; the worked values are evaluated. -/
theorem mixingFunctionValues : Obligations.MixingFunctionValues := by
  unfold Obligations.MixingFunctionValues
  exact ⟨mx_eq_mixOf, by decide, by decide⟩

/-- Settles O48: round by round, the sweeps are the updates with the neighbours they carry along. -/
theorem xxteaIsUpdateSequence : Obligations.XxteaIsUpdateSequence := by
  unfold Obligations.XxteaIsUpdateSequence
  intro v k hv
  exact ⟨xxteaEncrypt_eq_forwardUpdates k hv, xxteaDecrypt_eq_inverseUpdates k hv⟩

/-- Settles O49: the update sequences invert, since an update leaves the neighbours it reads. -/
theorem xxteaTransformsInvert : Obligations.XxteaTransformsInvert := by
  unfold Obligations.XxteaTransformsInvert
  intro v k h2
  exact ⟨xxteaDecrypt_xxteaEncrypt k h2, xxteaEncrypt_xxteaDecrypt k h2⟩

/-- Settles O50: both runs of 58 rounds are evaluated. -/
theorem singleWordIsNotInverted : Obligations.SingleWordIsNotInverted := by
  unfold Obligations.SingleWordIsNotInverted
  exact ⟨by decide +kernel, by decide +kernel⟩

/-- Settles O51: both commands retire with the array of their transform, which is its update sequence. -/
theorem wordArrayTransforms : Obligations.WordArrayTransforms := by
  unfold Obligations.WordArrayTransforms
  intro s hfatal hxv hdin hv
  exact ⟨xxteaEncrypt s.v s.xk, xxteaDecrypt s.v s.xk, xxteaEncrypt_length s.xk s.v, xxteaDecrypt_length s.xk s.v,
    xxteaEncrypt_eq_forwardUpdates s.xk hv, xxteaDecrypt_eq_inverseUpdates s.xk hv,
    exec_xenc hfatal hxv hdin hv, exec_xdec hfatal hxv hdin hv⟩

/-- Settles O53: the payload is packed, with its length word under `il`, and the bytes of the transform are
returned. -/
theorem xxencResult : Obligations.XxencResult := by
  unfold Obligations.XxencResult
  intro s il len hready hxv hdin
  have hlen : s.din.length = len.toNat := hready.2
  refine ⟨dataWords s.din, dataBytes (xxteaEncrypt (bytesToWords s.din il) s.xk), dataWords_isPacked s.din, ?_, ?_,
    exec_xxenc hready hxv (bytesToWords_ne_nil hdin)⟩
  · rw [← bytesToWords_eq, ← xxteaEncrypt_eq_forwardUpdates s.xk (bytesToWords_ne_nil hdin)]
    exact dataBytes_isBytesOf _
  · rw [dataBytes_length, xxteaEncrypt_length, bytesToWords_length, hlen, Nat.mul_add]

/-- Settles O54: without the length all bytes of the inverse transform are returned; with it its last word is in the
window or not. -/
theorem xxdecResult : Obligations.XxdecResult := by
  unfold Obligations.XxdecResult
  intro s len hfatal hlen hxv hdin
  have hready (il : Bool) : s.ReadyFor (.xxdec il len) := ⟨hfatal, hlen⟩
  have hwords : bytesToWords s.din false ≠ [] := bytesToWords_ne_nil (.inl hdin)
  have hdec := xxteaDecrypt_eq_inverseUpdates s.xk hwords
  refine ⟨bytesToWords s.din false, dataWords_isPacked s.din,
    ⟨dataBytes (inverseUpdates s.xk (bytesToWords s.din false)), dataBytes_isBytesOf _, ?_⟩,
    fun w m hw => ⟨fun hwin => ⟨dataBytes w, dataBytes_isBytesOf w, ?_⟩, fun hwin => ?_⟩⟩
  · exact exec_xxdec_of_some (hready false) hxv hdin (by rw [hdec, wordsToBytes_false])
  · exact exec_xxdec_of_some (hready true) hxv hdin (by rw [hdec, hw, wordsToBytes_true_inWindow hwin])
  · exact exec_xxdec_of_none (hready true) hxv hdin (by rw [hdec, hw, wordsToBytes_true_not_inWindow hwin])

/-- Settles O55: under the bounds the array has two words or more, so the transforms invert, and the ciphertext fits
`LEN`; what is left is the round trip of the packer. -/
theorem xxteaCommandRoundTrips : Obligations.XxteaCommandRoundTrips := by
  unfold Obligations.XxteaCommandRoundTrips
  intro s b hfatal hxv
  refine ⟨fun h1 hfit => ?_, fun h5 hfit => ?_⟩
  · refine exec_xxdec_xxenc hfatal hxv (by omega) ?_ ?_ (packerRoundTrips.1 b (by omega)).1
    · rw [bytesToWords_length, Bool.toNat_true]; omega
    · rw [bytesToWords_length, Bool.toNat_true]; omega
  · refine exec_xxdec_xxenc hfatal hxv (by omega) ?_ ?_ (packerRoundTrips.1 b (by omega)).2
    · rw [bytesToWords_length, Bool.toNat_false]; omega
    · rw [bytesToWords_length, Bool.toNat_false]; omega

end Sys2Proof.Machine
end

section
/-! SUPPORT. Numbers in a payload, and the checks of `CFBCFG` read backwards (00_scope R13; 44_cfb_controller R201,
R208): the record is accepted with given values exactly where the payload holds their bytes. -/

namespace Sys2Proof.Machine

@[simp] theorem bytesLE_length (n v : Nat) : (bytesLE n v).length = n := by
  induction n generalizing v with
  | zero => rfl
  | succ n ih => rw [bytesLE, List.length_cons, ih]

/-- The bytes of a number that fits them have that number (R13). -/
theorem natOfBytesLE_bytesLE {n v : Nat} (h : v < 256 ^ n) : natOfBytesLE (bytesLE n v) = v := by
  induction n generalizing v with
  | zero => exact (Nat.lt_one_iff.1 h).symm
  | succ n ih =>
    have hdiv : v / 256 < 256 ^ n := Nat.div_lt_of_lt_mul (by rwa [Nat.pow_succ'] at h)
    rw [bytesLE, natOfBytesLE, ih hdiv, BitVec.toNat_ofNat]
    exact Nat.mod_add_div v 256

/-- Bytes are determined by their number and their count (R13). -/
theorem bytesLE_natOfBytesLE (b : List Byte) : bytesLE b.length (natOfBytesLE b) = b := by
  induction b with
  | nil => rfl
  | cons x b ih =>
    have hlow : BitVec.ofNat 8 (x.toNat + 256 * natOfBytesLE b) = x := by
      apply BitVec.eq_of_toNat_eq
      rw [BitVec.toNat_ofNat]
      omega
    have hhigh : (x.toNat + 256 * natOfBytesLE b) / 256 = natOfBytesLE b := by omega
    rw [List.length_cons, natOfBytesLE, bytesLE, hlow, hhigh, ih]

/-- A field inside the payload reads as `v` exactly when the bytes of `v` stand there (R13). -/
theorem memRead_eq_iff {din : List Byte} {a n v : Nat} (hin : a + n ≤ din.length) (hv : v < 256 ^ n) :
    memRead din a n = v ↔ bytesLE n v <+: din.drop a := by
  have hlen : (slice a (a + n) din).length = n := by
    rw [slice, List.length_take, List.length_drop]
    omega
  rw [← slice_eq_iff_prefix (j := a + n) (by rw [bytesLE_length, Nat.add_sub_cancel_left]), memRead]
  constructor
  · rintro rfl
    have hback := bytesLE_natOfBytesLE (slice a (a + n) din)
    rw [hlen] at hback
    exact hback.symm
  · intro hslice
    rw [hslice, natOfBytesLE_bytesLE hv]

/-- The layout of R81 field by field: the two numbers, the key and the rest of the payload, each at its offset. -/
theorem cfbcfgPayload_iff_fields {bs : Nat} {key iv din : List Byte} :
    CfbcfgPayload bs key iv din ↔
      (8 ≤ bs ∧ bs ≤ 1024 ∧ bs ≤ iv.length) ∧ bytesLE 4 bs <+: din ∧ bytesLE 4 key.length <+: din.drop 4 ∧
        key <+: din.drop 8 ∧ din.drop (8 + key.length) = iv := by
  have hheader : (bytesLE 4 bs ++ bytesLE 4 key.length ++ key).length = 8 + key.length := by
    rw [List.length_append, List.length_append, bytesLE_length, bytesLE_length]
  have hfields : bytesLE 4 bs ++ bytesLE 4 key.length ++ key <+: din ↔
      bytesLE 4 bs <+: din ∧ bytesLE 4 key.length <+: din.drop 4 ∧ key <+: din.drop 8 := by
    rw [append_prefix_iff, append_prefix_iff, List.length_append, bytesLE_length, bytesLE_length, and_assoc]
  constructor
  · rintro ⟨hmin, hmax, hiv, rfl⟩
    obtain ⟨hbs, hkl, hkey⟩ := hfields.1 (List.prefix_append _ iv)
    exact ⟨⟨hmin, hmax, hiv⟩, hbs, hkl, hkey, List.drop_left' hheader⟩
  · rintro ⟨⟨hmin, hmax, hiv⟩, hbs, hkl, hkey, hrest⟩
    have hwhole := List.prefix_iff_eq_append.1 (hfields.2 ⟨hbs, hkl, hkey⟩)
    rw [hheader, hrest] at hwhole
    exact ⟨hmin, hmax, hiv, hwhole.symm⟩

/-- The record the checks of `CFBCFG` accept is what the fields read as; the key lies inside the payload, and block size
and IV are within their bounds (R201, R208). -/
theorem cfbRecord_eq_some_iff_reads {din : List Byte} {r : CfbRecord} :
    cfbRecord din = some r ↔
      8 + r.key.length ≤ din.length ∧ (8 ≤ r.blockSize ∧ r.blockSize ≤ 1024 ∧ r.blockSize ≤ r.iv.length) ∧
        memRead din 0 4 = r.blockSize ∧ memRead din 4 4 = r.key.length ∧
        slice 8 (8 + r.key.length) din = r.key ∧ din.drop (8 + r.key.length) = r.iv := by
  constructor
  · intro h
    have hbounds := cfbRecord_bounds h
    unfold cfbRecord at h
    split at h
    · cases h
    · simp only at h
      split at h
      · cases h
      · split at h <;> cases h
        have hkey : (slice 8 (8 + memRead din 4 4) din).length = memRead din 4 4 := by
          rw [slice, List.length_take, List.length_drop]
          omega
        rw [hkey]
        exact ⟨by omega, hbounds, rfl, rfl, rfl, rfl⟩
  · rintro ⟨hroom, ⟨hmin, hmax, hiv⟩, hbs, hkl, hkey, hrest⟩
    have hheader : ¬ din.length < 8 := by omega
    have hlen : ¬ 8 + r.key.length > din.length := by omega
    have hchecks : ¬ (r.blockSize < Config.bsMin ∨ r.blockSize > Config.bsMax ∨ r.iv.length < r.blockSize) := by
      rw [Config.bsMin, Config.bsMax]
      omega
    simp only [cfbRecord, hbs, hkl, hkey, hrest, if_neg hheader, if_neg hlen, if_neg hchecks]

/-- The payloads R81 and R201 describe are the ones the checks of `CFBCFG` accept; four bytes hold the length of any key
that a payload has room for. -/
theorem cfbRecord_eq_some_iff {din : List Byte} {r : CfbRecord} (hfit : din.length < 2 ^ 20) :
    cfbRecord din = some r ↔ CfbcfgPayload r.blockSize r.key r.iv din := by
  rw [cfbRecord_eq_some_iff_reads, cfbcfgPayload_iff_fields]
  have hreads (hroom : 8 + r.key.length ≤ din.length) (hmax : r.blockSize ≤ 1024) :
      (memRead din 0 4 = r.blockSize ↔ bytesLE 4 r.blockSize <+: din) ∧
        (memRead din 4 4 = r.key.length ↔ bytesLE 4 r.key.length <+: din.drop 4) ∧
        (slice 8 (8 + r.key.length) din = r.key ↔ r.key <+: din.drop 8) :=
    ⟨memRead_eq_iff (by omega) (by omega), memRead_eq_iff (by omega) (by omega),
      slice_eq_iff_prefix (Nat.add_sub_cancel_left 8 _) din⟩
  constructor
  · rintro ⟨hroom, hbounds, hbs, hkl, hkey, hrest⟩
    obtain ⟨hreadBs, hreadLen, hreadKey⟩ := hreads hroom hbounds.2.1
    exact ⟨hbounds, hreadBs.1 hbs, hreadLen.1 hkl, hreadKey.1 hkey, hrest⟩
  · rintro ⟨⟨hmin, hmax, hiv⟩, hbs, hkl, hkey, hrest⟩
    have hroom : 8 + r.key.length ≤ din.length := by
      have hlen := congrArg List.length hrest
      rw [List.length_drop] at hlen
      omega
    obtain ⟨hreadBs, hreadLen, hreadKey⟩ := hreads hroom hmax
    exact ⟨hroom, ⟨hmin, hmax, hiv⟩, hreadBs.2 hbs, hreadLen.2 hkl, hreadKey.2 hkey, hrest⟩

end Sys2Proof.Machine
end

section
/-! SUPPORT. The chunk loop of the CFB controller (44_cfb_controller R202 to R205): one chunk of it, and the chaining
rule it follows in both directions. -/

namespace Sys2Proof.Machine

variable {dir : CfbDir} {k : Key} {bs fuel : Nat} {prev data out : List Byte} {s : State}

/-- The mask of a block has the bytes of its words (R202). -/
theorem cfbMask_length (k : Key) (prev : List Byte) : (cfbMask k prev).length = 4 * ((prev.length + 3) / 4) := by
  rw [cfbMask, dataBytes_length, xxteaEncrypt_length, bytesToWords_length, Bool.toNat_false, Nat.add_zero]

/-- The mask is as long as the block exactly when that is a multiple of 4 (R205). -/
theorem cfbMask_length_eq_iff (k : Key) (prev : List Byte) :
    (cfbMask k prev).length = prev.length ↔ prev.length % 4 = 0 := by
  rw [cfbMask_length]
  omega

/-- The mask of the model is the mask of R202. -/
theorem cfbMask_isMaskOf (k : Key) (hprev : prev ≠ []) : IsMaskOf k prev (cfbMask k prev) := by
  refine ⟨bytesToWords prev false, dataWords_isPacked prev, ?_⟩
  rw [← xxteaEncrypt_eq_forwardUpdates k (bytesToWords_ne_nil (.inl hprev))]
  exact dataBytes_isBytesOf _

/-- The ciphertext of a run: its result where it enciphers, its data where it deciphers (R203). -/
def CfbDir.ciphertext : CfbDir → (data out : List Byte) → List Byte
  | .enc, _, out => out
  | .dec, data, _ => data

@[simp] theorem CfbDir.ciphertext_enc (data out : List Byte) : CfbDir.enc.ciphertext data out = out := rfl

@[simp] theorem CfbDir.ciphertext_dec (data out : List Byte) : CfbDir.dec.ciphertext data out = data := rfl

theorem CfbDir.ciphertext_length (h : out.length = data.length) : (dir.ciphertext data out).length = data.length := by
  cases dir with
  | enc => exact h
  | dec => rfl

/-- No data, no chunk (R203). -/
@[simp] theorem cfbLoop_nil (dir : CfbDir) (k : Key) (bs fuel : Nat) (prev : List Byte) :
    cfbLoop dir k bs fuel prev [] = .ok [] := by
  cases fuel <;> rfl

/-- A mask that is not as long as a block stops the loop at the chunk (R205). -/
theorem cfbLoop_badMask (hdata : data ≠ []) (hmask : (cfbMask k prev).length ≠ bs) :
    cfbLoop dir k bs (fuel + 1) prev data = .error .invariant := by
  obtain ⟨b, rest, rfl⟩ := List.exists_cons_of_ne_nil hdata
  exact if_pos hmask

/-- The chunk XOR the mask, and then what the loop makes of the rest, with the chunk's ciphertext as the block before it
(R203). -/
theorem cfbLoop_chunk (hdata : data ≠ []) (hmask : (cfbMask k prev).length = bs) :
    cfbLoop dir k bs (fuel + 1) prev data =
      (cfbLoop dir k bs fuel (dir.ciphertext (data.take bs) (xorBytes (data.take bs) (cfbMask k prev)))
        (data.drop bs)).map (xorBytes (data.take bs) (cfbMask k prev) ++ ·) := by
  obtain ⟨b, rest, rfl⟩ := List.exists_cons_of_ne_nil hdata
  rw [cfbLoop, if_neg (not_not.2 hmask)]
  cases dir with
  | enc =>
    simp only [CfbDir.ciphertext_enc]
    generalize cfbLoop .enc k bs fuel _ _ = tail
    cases tail <;> rfl
  | dec =>
    simp only [CfbDir.ciphertext_dec]
    generalize cfbLoop .dec k bs fuel _ _ = tail
    cases tail <;> rfl

/-- The loop completes exactly when the mask of its first chunk is as long as a block and it completes on the rest. -/
theorem cfbLoop_eq_ok_iff (hdata : data ≠ []) :
    cfbLoop dir k bs (fuel + 1) prev data = .ok out ↔
      (cfbMask k prev).length = bs ∧
        ∃ tail, cfbLoop dir k bs fuel (dir.ciphertext (data.take bs) (xorBytes (data.take bs) (cfbMask k prev)))
            (data.drop bs) = .ok tail ∧ xorBytes (data.take bs) (cfbMask k prev) ++ tail = out := by
  by_cases hmask : (cfbMask k prev).length = bs
  · rw [cfbLoop_chunk hdata hmask]
    generalize cfbLoop dir k bs fuel _ _ = rest
    cases rest <;> simp [Except.map, hmask]
  · simp [cfbLoop_badMask hdata hmask, hmask]

/-- A chunk XOR a mask of a whole block is as long as the chunk (R204). -/
theorem xorBytes_take_length {mask : List Byte} (hmask : mask.length = bs) (data : List Byte) :
    (xorBytes (data.take bs) mask).length = min bs data.length := by
  rw [xorBytes, List.length_zipWith, List.length_take, hmask]
  omega

/-- Byte `j` of the first chunk XOR byte `j` of its mask (R203). -/
theorem xorBytes_take_getElem? {mask : List Byte} {j : Nat} (hfirst : j < bs) (hmask : j < mask.length)
    (hj : j < data.length) :
    (xorBytes (data.take bs) mask)[j]? = some (data.getD j 0#8 ^^^ mask.getD j 0#8) := by
  simp [xorBytes, List.getElem?_zipWith, List.getElem?_take_of_lt hfirst, hj, hmask]

/-- XOR with the same mask twice gives the chunk back (R211). -/
theorem xorBytes_xorBytes {chunk mask : List Byte} (h : chunk.length ≤ mask.length) :
    xorBytes (xorBytes chunk mask) mask = chunk := by
  refine List.ext_getElem (by simp [xorBytes]; omega) fun j hj hj' => ?_
  simp [xorBytes]

/-- The ciphertext of a run is the ciphertext of its first chunk and then that of the rest. -/
theorem CfbDir.ciphertext_append_chunk {o tail : List Byte} (ho : o.length = min bs data.length)
    (htail : tail.length = (data.drop bs).length) :
    (dir.ciphertext data (o ++ tail)).take bs = dir.ciphertext (data.take bs) o ∧
      (dir.ciphertext data (o ++ tail)).drop bs = dir.ciphertext (data.drop bs) tail := by
  cases dir with
  | dec => exact ⟨rfl, rfl⟩
  | enc =>
    rw [List.length_drop] at htail
    rcases Nat.le_total bs data.length with hfull | hshort
    · have hwhole : o.length = bs := by omega
      exact ⟨List.take_left' hwhole, List.drop_left' hwhole⟩
    · obtain rfl : tail = [] := List.length_eq_zero_iff.1 (by omega)
      have hle : o.length ≤ bs := by omega
      simp [List.take_of_length_le hle, List.drop_of_length_le hle]

/-- No data is chained to no result. -/
theorem isChained_nil (s : State) (cipher : List Byte) : IsChained s [] cipher [] :=
  ⟨rfl, fun j hj => absurd hj (Nat.not_lt_zero j)⟩

/-- Counted from the second chunk on, the first ciphertext block stands in the place of the IV (R203). -/
theorem prevBlock_succ (s : State) (cipher : List Byte) (c : Nat) :
    prevBlock s cipher (c + 1) = prevBlock { s with ivb := cipher.take s.bs } (cipher.drop s.bs) c := by
  cases c with
  | zero => simp [prevBlock]
  | succ c =>
    simp only [prevBlock, Nat.succ_ne_zero, if_false, Nat.add_sub_cancel, List.drop_drop]
    rw [Nat.succ_mul, Nat.add_comm]

/-- A chunk XOR its mask, and then a chained result of the rest of the data, are a chained result (R203, R204). -/
theorem IsChained.chunk {mask tail cipher : List Byte} (hbs : 0 < s.bs) (hmask : IsMaskOf s.ck s.ivb mask)
    (hlen : mask.length = s.bs)
    (h : IsChained { s with ivb := cipher.take s.bs } (data.drop s.bs) (cipher.drop s.bs) tail) :
    IsChained s data cipher (xorBytes (data.take s.bs) mask ++ tail) := by
  obtain ⟨htail, hrest⟩ := h
  have ho := xorBytes_take_length hlen data
  rw [List.length_drop] at htail hrest
  refine ⟨by rw [List.length_append]; omega, fun j hj => ?_⟩
  rcases Nat.lt_or_ge j s.bs with hfirst | hlater
  · refine ⟨mask, by rw [Nat.div_eq_of_lt hfirst]; exact hmask, ?_⟩
    rw [List.getElem?_append_left (by omega), Nat.mod_eq_of_lt hfirst]
    exact xorBytes_take_getElem? hfirst (by omega) hj
  · obtain ⟨i, rfl⟩ := Nat.exists_eq_add_of_le hlater
    obtain ⟨mask', hmask', hout⟩ := hrest i (by omega)
    refine ⟨mask', ?_, ?_⟩
    · rw [Nat.add_div_left i hbs, prevBlock_succ]
      exact hmask'
    · have hpast : s.bs + i - (xorBytes (data.take s.bs) mask).length = i := by omega
      rw [List.getElem?_append_right (by omega), hpast, hout, Nat.add_mod_left,
        List.getD_eq_getElem?_getD, List.getElem?_drop, ← List.getD_eq_getElem?_getD]

/-- From a block of the right length the loop completes, in either direction, and follows the chaining rule; the count
of the data bounds its chunks (R203, log 15). -/
theorem cfbLoop_isChained (hbs : 0 < s.bs) (hmod : s.bs % 4 = 0) (hfuel : data.length ≤ fuel)
    (hprev : data ≠ [] → prev.length = s.bs) :
    ∃ out, cfbLoop dir s.ck s.bs fuel prev data = .ok out ∧
      IsChained { s with ivb := prev } data (dir.ciphertext data out) out := by
  induction fuel generalizing prev data with
  | zero =>
    obtain rfl : data = [] := List.length_eq_zero_iff.1 (Nat.le_zero.1 hfuel)
    exact ⟨[], cfbLoop_nil .., isChained_nil ..⟩
  | succ fuel ih =>
    rcases eq_or_ne data [] with rfl | hdata
    · exact ⟨[], cfbLoop_nil .., isChained_nil ..⟩
    have hmask : (cfbMask s.ck prev).length = s.bs := by
      rw [← hprev hdata] at hmod ⊢
      exact (cfbMask_length_eq_iff s.ck prev).2 hmod
    have hpos := List.length_pos_of_ne_nil hdata
    have hblock : prev ≠ [] := List.ne_nil_of_length_pos (by rw [hprev hdata]; exact hbs)
    have ho := xorBytes_take_length hmask data
    obtain ⟨tail, hloop, hchain⟩ := ih (data := data.drop s.bs)
      (prev := dir.ciphertext (data.take s.bs) (xorBytes (data.take s.bs) (cfbMask s.ck prev)))
      (by rw [List.length_drop]; omega)
      (fun hmore => by
        have hfull := List.length_pos_of_ne_nil hmore
        rw [List.length_drop] at hfull
        rw [CfbDir.ciphertext_length (by rw [ho, List.length_take]), List.length_take]
        omega)
    obtain ⟨htake, hdrop⟩ := CfbDir.ciphertext_append_chunk (dir := dir) ho hchain.1
    refine ⟨_, (cfbLoop_eq_ok_iff hdata).2 ⟨hmask, tail, hloop, rfl⟩, ?_⟩
    rw [← htake, ← hdrop] at hchain
    exact IsChained.chunk (s := { s with ivb := prev }) hbs (cfbMask_isMaskOf s.ck hblock) hmask hchain

/-- The result is as long as the data (R204). -/
theorem cfbLoop_length (hbs : 0 < bs) (hfuel : data.length ≤ fuel) (h : cfbLoop dir k bs fuel prev data = .ok out) :
    out.length = data.length := by
  induction fuel generalizing prev data out with
  | zero =>
    obtain rfl : data = [] := List.length_eq_zero_iff.1 (Nat.le_zero.1 hfuel)
    cases h
    rfl
  | succ fuel ih =>
    rcases eq_or_ne data [] with rfl | hdata
    · cases h
      rfl
    obtain ⟨hmask, tail, hloop, rfl⟩ := (cfbLoop_eq_ok_iff hdata).1 h
    have hpos := List.length_pos_of_ne_nil hdata
    have htail := ih (by rw [List.length_drop]; omega) hloop
    rw [List.length_append, xorBytes_take_length hmask, htail, List.length_drop]
    omega

/-- What the loop enciphers it deciphers: the ciphertext it fed back is the ciphertext it is given (R211). -/
theorem cfbLoop_dec_enc (hbs : 0 < bs) (hfuel : data.length ≤ fuel) (h : cfbLoop .enc k bs fuel prev data = .ok out) :
    cfbLoop .dec k bs fuel prev out = .ok data := by
  induction fuel generalizing prev data out with
  | zero =>
    obtain rfl : data = [] := List.length_eq_zero_iff.1 (Nat.le_zero.1 hfuel)
    cases h
    rfl
  | succ fuel ih =>
    rcases eq_or_ne data [] with rfl | hdata
    · cases h
      rfl
    obtain ⟨hmask, tail, hloop, rfl⟩ := (cfbLoop_eq_ok_iff hdata).1 h
    have hpos := List.length_pos_of_ne_nil hdata
    have hrestFuel : (data.drop bs).length ≤ fuel := by rw [List.length_drop]; omega
    have ho := xorBytes_take_length hmask data
    have houtNonempty : xorBytes (data.take bs) (cfbMask k prev) ++ tail ≠ [] :=
      List.append_ne_nil_of_left_ne_nil (List.ne_nil_of_length_pos (by omega)) tail
    obtain ⟨htake, hdrop⟩ :=
      CfbDir.ciphertext_append_chunk (dir := .enc) ho (cfbLoop_length hbs hrestFuel hloop)
    rw [CfbDir.ciphertext_enc, CfbDir.ciphertext_enc] at htake hdrop
    have hchunk : xorBytes (xorBytes (data.take bs) (cfbMask k prev)) (cfbMask k prev) = data.take bs :=
      xorBytes_xorBytes (by rw [hmask]; exact List.length_take_le bs data)
    refine (cfbLoop_eq_ok_iff houtNonempty).2 ⟨hmask, data.drop bs, ?_, ?_⟩
    · rw [htake, hdrop]
      exact ih hrestFuel hloop
    · rw [htake, hchunk, List.take_append_drop]

end Sys2Proof.Machine
end

section
/-! SUPPORT. How the commands of the XxteaCfb unit end (44_cfb_controller R205 to R210). -/

namespace Sys2Proof.Machine

variable {s : State} {len : BitVec 20} {dir : CfbDir} {out : List Byte}

/-- The command of a direction (R209, R210). -/
def CfbDir.instr : CfbDir → BitVec 20 → Instr
  | .enc => .cfbenc
  | .dec => .cfbdec

@[simp] theorem CfbDir.instr_payloadLen (dir : CfbDir) (len : BitVec 20) :
    (dir.instr len).payloadLen = len.toNat := by
  cases dir <;> rfl

@[simp] theorem CfbDir.instr_needs (dir : CfbDir) (len : BitVec 20) : (dir.instr len).needs = some .cfb := by
  cases dir <;> rfl

/-- The pseudocode of both commands is the chunk loop and writes nothing. -/
theorem commandBody_cfb (dir : CfbDir) (len : BitVec 20) (s : State) (din : List Byte) :
    commandBody (dir.instr len) s din = (s.cfb dir din).map fun out => (s, out) := by
  cases dir with
  | enc =>
    simp only [CfbDir.instr, commandBody]
    cases s.cfb .enc din <;> rfl
  | dec =>
    simp only [CfbDir.instr, commandBody]
    cases s.cfb .dec din <;> rfl

/-- Both commands run the chunk loop from the IV over the payload. -/
theorem exec_cfb (hready : CfbReady s) (hlen : s.din.length = len.toNat) :
    exec (dir.instr len) s = .next (s.finish ((s.cfb dir s.din).map fun out => (s, out))) := by
  obtain ⟨hfatal, hcv, -, -⟩ := hready
  rw [exec_ready ⟨hfatal, by rw [hlen, CfbDir.instr_payloadLen]⟩ (by rw [CfbDir.instr_needs]; exact hcv),
    commandBody_cfb]

/-- A CFB command retires with what its loop returns and writes nothing (R209, R210). -/
theorem exec_cfb_of_ok (hready : CfbReady s) (hlen : s.din.length = len.toNat) (h : s.cfb dir s.din = .ok out) :
    exec (dir.instr len) s = .next (normalEnd s out) := by
  rw [exec_cfb hready hlen, h, ← retire_eq_normalEnd]
  rfl

/-- `E_INVARIANT` leaves the state written out from R223. -/
theorem raise_invariant_eq_fatalEnd (s : State) : s.raise .invariant = fatalEnd s 3#4 := by
  simp [State.raise, State.endCommand, fatalEnd, Err.code, Err.isFatal]

/-- Where its loop is stopped, a CFB command ends with `E_INVARIANT` (R205). -/
theorem exec_cfb_of_invariant (hready : CfbReady s) (hlen : s.din.length = len.toNat)
    (h : s.cfb dir s.din = .error .invariant) : exec (dir.instr len) s = .next (fatalEnd s 3#4) := by
  rw [exec_cfb hready hlen, h, ← raise_invariant_eq_fatalEnd]
  rfl

/-- With a block size that is a multiple of 4 the loop from the IV completes and follows the chaining rule (R203). -/
theorem cfb_isChained (hready : CfbReady s) (hmod : s.bs % 4 = 0) (data : List Byte) :
    ∃ out, s.cfb dir data = .ok out ∧ IsChained s data (dir.ciphertext data out) out := by
  obtain ⟨-, -, hmin, hiv⟩ := hready
  exact cfbLoop_isChained (by omega) hmod le_rfl fun _ => hiv

/-- With any other block size the first mask stops the loop (R205). -/
theorem cfb_badBlockSize (hready : CfbReady s) (hmod : s.bs % 4 ≠ 0) {data : List Byte} (hdata : data ≠ []) :
    s.cfb dir data = .error .invariant := by
  obtain ⟨-, -, -, hiv⟩ := hready
  have hmask : (cfbMask s.ck s.ivb).length ≠ s.bs := by
    rw [← hiv] at hmod ⊢
    exact mt (cfbMask_length_eq_iff s.ck s.ivb).1 hmod
  obtain ⟨b, rest, rfl⟩ := List.exists_cons_of_ne_nil hdata
  exact cfbLoop_badMask hdata hmask

end Sys2Proof.Machine
end

section
/-! The statements of 44_cfb_controller. -/

namespace Sys2Proof.Machine

/-- Settles O56: the described payloads are those the checks accept, and the rest are refused before any write. -/
theorem cfbcfgConstructsOrRefuses : Obligations.CfbcfgConstructsOrRefuses := by
  unfold Obligations.CfbcfgConstructsOrRefuses
  intro s len hready
  have hfit : s.din.length < 2 ^ 20 := by rw [hready.2]; exact payloadLen_lt _
  refine ⟨fun bs key iv hpayload => ?_, fun hnone => ?_⟩
  · have hrecord : cfbRecord s.din = some { blockSize := bs, key := key, iv := iv } :=
      (cfbRecord_eq_some_iff hfit).2 hpayload
    exact ⟨deriveKey key, deriveKey_isKeyOf key, exec_retires hready rfl (by simp only [commandBody, hrecord]; rfl)⟩
  · have hrecord : cfbRecord s.din = none := by
      by_contra hsome
      obtain ⟨r, hr⟩ := Option.ne_none_iff_exists'.1 hsome
      exact hnone ⟨r.blockSize, r.key, r.iv, (cfbRecord_eq_some_iff hfit).1 hr⟩
    have hbody : commandBody (.cfbcfg len) s s.din = .error .config := by simp only [commandBody, hrecord]
    rw [exec_ready hready rfl, hbody, State.finish_error, raise_config_eq_softEnd]

/-- Settles O57: in each direction the loop chains the payload to its ciphertext, which is the result of `CFBENC` and
the payload of `CFBDEC`. -/
theorem cfbChainingResults : Obligations.CfbChainingResults := by
  unfold Obligations.CfbChainingResults
  intro s len hready hmod hlen
  obtain ⟨e, henc, hencChain⟩ := cfb_isChained (dir := .enc) hready hmod s.din
  obtain ⟨d, hdec, hdecChain⟩ := cfb_isChained (dir := .dec) hready hmod s.din
  exact ⟨⟨e, hencChain, exec_cfb_of_ok hready hlen henc⟩, ⟨d, hdecChain, exec_cfb_of_ok hready hlen hdec⟩⟩

/-- Settles O58: the first mask is not as long as a block; without data there is no first mask. -/
theorem badBlockSizeIsFatal : Obligations.BadBlockSizeIsFatal := by
  unfold Obligations.BadBlockSizeIsFatal
  intro s len hready hmod hlen
  refine ⟨fun hdata => ?_, fun hdata => ?_⟩
  · have hstop (dir : CfbDir) : exec (dir.instr len) s = .next (fatalEnd s 3#4) :=
      exec_cfb_of_invariant hready hlen (cfb_badBlockSize hready hmod hdata)
    exact ⟨hstop .enc, hstop .dec⟩
  · have hdone (dir : CfbDir) : exec (dir.instr len) s = .next (normalEnd s []) :=
      exec_cfb_of_ok hready hlen (by rw [hdata]; rfl)
    exact ⟨hdone .enc, hdone .dec⟩

/-- Settles O59: `CFBENC` leaves key, block size and IV, so `CFBDEC` runs the loop that deciphers its result. -/
theorem cfbRoundTrip : Obligations.CfbRoundTrip := by
  unfold Obligations.CfbRoundTrip
  intro s b hready hmod hlen
  obtain ⟨c, henc, hchain⟩ := cfb_isChained (dir := .enc) hready hmod b
  have hcount : c.length = b.length := hchain.1
  have hbs : 0 < s.bs := by
    obtain ⟨-, -, hmin, -⟩ := hready
    omega
  have hdec : s.cfb .dec c = .ok b := by
    rw [State.cfb, hcount]
    exact cfbLoop_dec_enc hbs le_rfl henc
  exact ⟨_, _, exec_cfb_of_ok (dir := .enc) (s := { s with din := b }) hready (length_eq_toNat_ofNat hlen) henc,
    exec_cfb_of_ok (dir := .dec) (s := { normalEnd { s with din := b } c with din := c }) hready
      (length_eq_toNat_ofNat (hcount ▸ hlen)) hdec, rfl, rfl⟩

end Sys2Proof.Machine
end

section
/-! SUPPORT. Errors (60_exceptions): the state each kind leaves (R222, R223), which error a pseudocode can end with
(R230, last column), and what the frame of a command does around it (R223, R228, R238). -/

namespace Sys2Proof.Machine

variable {s t : State} {i : Instr} {e : Err}

/-! The end with an error. -/

/-- The fatal errors by name (R230). -/
theorem isFatal_iff (e : Err) : e.isFatal = true ↔ e = .invariant ∨ e = .contract := by
  cases e <;> simp [Err.isFatal]

/-- A soft error leaves the state written out from R222. -/
theorem raise_eq_softEnd (s : State) (h : e.isFatal = false) : s.raise e = softEnd s e.code := by
  simp [State.raise, State.endCommand, softEnd, h]

/-- A fatal error leaves the state written out from R223. -/
theorem raise_eq_fatalEnd (s : State) (h : e.isFatal = true) : s.raise e = fatalEnd s e.code := by
  simp [State.raise, State.endCommand, fatalEnd, h]

/-- The end with an error is one of the two. -/
theorem raise_eq_softEnd_or_fatalEnd (s : State) (e : Err) :
    s.raise e = softEnd s e.code ∨ s.raise e = fatalEnd s e.code := by
  cases hfatal : e.isFatal with
  | false => exact .inl (raise_eq_softEnd s hfatal)
  | true => exact .inr (raise_eq_fatalEnd s hfatal)

/-! Which error the pseudocode of an instruction can end with. -/

/-- A lookup ends with an error only on an operand that is no lowercase letter (R122, R226). -/
theorem letterBody_error {f : State → Letter → Letter} {din : List Byte} (h : letterBody f s din = .error e) :
    e = .contract := by
  unfold letterBody letterOperand at h
  split at h <;> cases h
  rename_i hoperand
  split at hoperand <;> cases hoperand
  rfl

/-- The chunk loop ends with an error only on a mask that is not as long as a block (R205, R225). -/
theorem cfbLoop_error {dir : CfbDir} {k : Key} {bs fuel : Nat} {prev data : List Byte}
    (h : cfbLoop dir k bs fuel prev data = .error e) : e = .invariant := by
  induction fuel generalizing prev data with
  | zero => cases h
  | succ fuel ih =>
    cases data with
    | nil => cases h
    | cons b rest =>
      simp only [cfbLoop] at h
      split at h
      · cases h
        rfl
      · split at h <;> cases h
        exact ih ‹_›

/-- Only a length word can make an array corrupt (R153, R224). -/
theorem eq_true_of_wordsToBytes_eq_none {w : List Word} {il : Bool} (h : wordsToBytes w il = none) : il = true := by
  cases il with
  | false => cases h
  | true => rfl

/-- An error that the pseudocode of an instruction ends with is one that R230 lists for the instruction. -/
theorem commandBody_error {din : List Byte} (h : commandBody i s din = .error e) : raisedBy e i := by
  cases i with
  | nop | raln | erst | estep | estrm | enige | enigd | pack | xkey => cases h
  | encfg | cfbcfg =>
    simp only [commandBody] at h
    split at h <;> cases h
    simp [raisedBy]
  | rfwd | rinv | refl | plug | fchain | ichain =>
    rw [commandBody] at h
    obtain rfl := letterBody_error h
    simp [raisedBy]
  | unpack =>
    simp only [commandBody] at h
    split at h <;> cases h
    obtain rfl := eq_true_of_wordsToBytes_eq_none ‹_›
    simp [raisedBy]
  | xenc | xdec | xxenc =>
    simp only [commandBody] at h
    split at h <;> cases h
    simp [raisedBy]
  | xxdec =>
    simp only [commandBody] at h
    split at h
    · cases h
      simp [raisedBy]
    · split at h <;> cases h
      obtain rfl := eq_true_of_wordsToBytes_eq_none ‹_›
      simp [raisedBy]
  | cfbenc | cfbdec =>
    simp only [commandBody] at h
    split at h <;> cases h
    obtain rfl := cfbLoop_error ‹_›
    simp [raisedBy]

/-! The frame of a command. -/

/-- While `FATAL` = 1 no instruction does anything (R223). -/
theorem exec_fatal (i : Instr) (h : s.status.fatal = true) : exec i s = .next s := by
  rw [exec_eq_runCommand]
  exact runCommand_fatal h

/-- With no action of the host the block is idle (R238, log 12). -/
theorem step_idle (h : s.host = []) : step s = .next s := by
  simp [step, h]

/-- A ready instruction whose cipher unit is missing ends with `E_NOINST` (R228). -/
theorem exec_missing (h : s.ReadyFor i) (hu : s.hasInstance i.needs = false) : exec i s = .next (s.raise .noInst) := by
  obtain ⟨hfatal, hlen⟩ := h
  rw [exec_eq_runCommand]
  exact runCommand_missing hfatal hlen hu

/-- A ready instruction whose pseudocode raises an error ends with it (R220). -/
theorem exec_raises (h : s.ReadyFor i) (hu : s.hasInstance i.needs = true)
    (hbody : commandBody i s s.din = .error e) : exec i s = .next (s.raise e) := by
  rw [exec_ready h hu, hbody, State.finish_error]

/-- A command of the Xxtea unit that finds no words to transform ends with `E_EMPTY` (R178, R229). -/
theorem exec_noWords (hready : s.ReadyFor i) (hneeds : i.needs = some .xxtea) (hxv : s.status.xv = true)
    (hbody : commandBody i s s.din = .error .empty) : exec i s = .next (softEnd s 7#4) := by
  rw [exec_raises hready (by rw [hneeds]; exact hxv) hbody, raise_eq_softEnd s rfl]
  rfl

/-- Only an instruction that needs a cipher unit can find it missing (R228). -/
theorem needs_ne_none_of_missing (h : s.hasInstance i.needs = false) : i.needs ≠ none := by
  intro hnone
  simp [hnone] at h

/-- An accepted instruction ends with an error that R230 lists for it, or retires with what its pseudocode wrote and
returned. -/
theorem exec_raises_or_retires (hf : s.status.fatal = false) (h : exec i s = .next t) :
    (∃ e, raisedBy e i ∧ t = s.raise e) ∨ ∃ u out, commandBody i s s.din = .ok (u, out) ∧ t = u.retire out := by
  rcases exec_next h with ⟨hfatal, -⟩ | ⟨-, hmissing, rfl⟩ | ⟨-, -, rfl⟩
  · simp [hf] at hfatal
  · exact .inl ⟨.noInst, needs_ne_none_of_missing hmissing, rfl⟩
  · cases hbody : commandBody i s s.din with
    | error e => exact .inl ⟨e, commandBody_error hbody, rfl⟩
    | ok r => exact .inr ⟨r.1, r.2, rfl, rfl⟩

/-- What an accepted illegal word answers with is the end with `E_ILLEGAL` (R76, R227). -/
theorem execIllegal_next {len : BitVec 20} (hf : s.status.fatal = false) (h : execIllegal len s = .next t) :
    t = s.raise .illegal := by
  rcases runCommand_next h with ⟨hfatal, -⟩ | ⟨-, -, hmissing, -⟩ | ⟨-, -, -, rfl⟩
  · simp [hf] at hfatal
  · cases hmissing
  · rfl

end Sys2Proof.Machine
end

section
/-! The statements of 60_exceptions. -/

namespace Sys2Proof.Machine

/-- Settles O17: an accepted instruction raises an error of its own, or retires; a retirement shows 0 and leaves `FATAL`
as the pseudocode left it, which is as it was. -/
theorem errorCodesAndRaisers : Obligations.ErrorCodesAndRaisers := by
  unfold Obligations.ErrorCodesAndRaisers
  refine ⟨⟨rfl, rfl, rfl, rfl, rfl, rfl, rfl⟩, fun i s t hf h => ?_, fun s t c rest hhost hf hillegal hstep => ?_⟩
  · rcases exec_raises_or_retires hf h with ⟨e, hraised, rfl⟩ | ⟨u, out, hbody, rfl⟩
    · exact .inr ⟨e, rfl, hraised, by simp [hf, isFatal_iff]⟩
    · exact .inl ⟨rfl, by simp [(commandBody_writes hbody).fatal, hf]⟩
  · obtain ⟨x, hx⟩ := hillegal
    rw [step_command hhost, presentCommand_illegal (s := s.withHost rest) hf hx] at hstep
    obtain rfl := execIllegal_next (s := (s.withHost rest).accept c.payload) hf hstep
    rfl

/-- Settles O19: a retirement shows 0, so a command that shows an error has raised it. -/
theorem errorsArePrecise : Obligations.ErrorsArePrecise := by
  unfold Obligations.ErrorsArePrecise
  intro i s t hf h herr
  rcases exec_raises_or_retires hf h with ⟨e, -, rfl⟩ | ⟨u, out, -, rfl⟩
  · exact raise_eq_softEnd_or_fatalEnd s e
  · exact absurd rfl herr

/-- Settles O7: `FATAL` is checked before anything else is done, with a presented command and in the frame of every
instruction; an idle step does nothing. -/
theorem fatalOrIdleBlockKeepsState : Obligations.FatalOrIdleBlockKeepsState := by
  unfold Obligations.FatalOrIdleBlockKeepsState
  refine ⟨fun s c rest hhost hf => ?_, fun s i hf => exec_fatal i hf, fun s hhost => step_idle hhost⟩
  rw [step_command hhost, presentCommand_fatal (s := s.withHost rest) hf]
  rfl

/-- Settles O15: 32 bits hold the length of the result, and the count is a sum of 32 bits. -/
theorem retireWritesStatus : Obligations.RetireWritesStatus := by
  unfold Obligations.RetireWritesStatus
  intro s out hlen
  refine ⟨retire_eq_normalEnd s out, ?_, ?_⟩
  · rw [State.retire_outlen, BitVec.toNat_ofNat, Nat.mod_eq_of_lt hlen]
  · rw [State.retire_cseq, BitVec.toNat_add]
    rfl

/-- Settles O16: each of the seven errors leaves the end of its kind. -/
theorem raiseDiscardsWrites : Obligations.RaiseDiscardsWrites := by
  unfold Obligations.RaiseDiscardsWrites
  refine fun s => ⟨fun e he => raise_eq_softEnd s ?_, fun e he => raise_eq_fatalEnd s ((isFatal_iff e).2 he)⟩
  rcases he with rfl | rfl | rfl | rfl | rfl <;> rfl

/-- Settles O18: the valid flag is checked before the pseudocode begins, and `E_NOINST` is soft. -/
theorem missingInstanceIsRefused : Obligations.MissingInstanceIsRefused := by
  unfold Obligations.MissingInstanceIsRefused
  intro i u s hneeds hvalid hready
  rw [exec_missing hready (by rw [hneeds]; exact hvalid), raise_eq_softEnd s rfl]
  rfl

/-- Settles O52: in each of the cases the pseudocode finds an array of no words, its own or that of the empty payload. -/
theorem emptyArrayIsRefused : Obligations.EmptyArrayIsRefused := by
  unfold Obligations.EmptyArrayIsRefused
  intro s hf hxv hdin
  have hlen : s.din.length = 0 := congrArg List.length hdin
  have hwords : bytesToWords s.din false = [] := by rw [hdin]; rfl
  exact ⟨fun hv => ⟨exec_noWords ⟨hf, hlen⟩ rfl hxv (if_pos hv), exec_noWords ⟨hf, hlen⟩ rfl hxv (if_pos hv)⟩,
    exec_noWords ⟨hf, hlen⟩ rfl hxv (if_pos hwords), fun _ => exec_noWords ⟨hf, hlen⟩ rfl hxv (if_pos hwords)⟩

end Sys2Proof.Machine
end

section
/-! SUPPORT. What a step is, action by action (00_scope R7, 70_reset_and_hazards R240, R242), and what every step that
is not a reset leaves of the flags and the count (R241). -/

namespace Sys2Proof.Machine

variable {s t : State} {rest : List HostAction}

/-- With a reset waiting, alone or during a command, a step takes it (R240, R242). -/
theorem step_reset {c : Command} (h : s.host = .reset :: rest ∨ s.host = .commandThenReset c :: rest) :
    step s = .next (s.withHost rest).takeReset := by
  rcases h with h | h <;> simp [step, h, meetAction]

/-- Everything a step that has a next state can be: idle, the presenting of a command, or a reset. -/
theorem step_next (h : step s = .next t) :
    (s.host = [] ∧ t = s) ∨
    (∃ c rest, s.host = .command c :: rest ∧ presentCommand c (s.withHost rest) = .next t) ∨
    (∃ rest, (s.host = .reset :: rest ∨ ∃ c, s.host = .commandThenReset c :: rest) ∧
      t = (s.withHost rest).takeReset) := by
  unfold step at h
  split at h
  · cases h
    exact .inl ⟨‹_›, rfl⟩
  · rename_i a rest hhost
    cases a with
    | command c => exact .inr (.inl ⟨c, rest, hhost, h⟩)
    | commandThenReset c => cases h; exact .inr (.inr ⟨rest, .inr ⟨c, hhost⟩, rfl⟩)
    | reset => cases h; exact .inr (.inr ⟨rest, .inl hhost, rfl⟩)

/-- From `s` to `t` no sticky flag of `STATUS` is cleared, and the count stays or goes on by 1. -/
structure GoesOn (s t : State) : Prop where
  fatal : s.status.fatal = true → t.status.fatal = true
  ev : s.status.ev = true → t.status.ev = true
  xv : s.status.xv = true → t.status.xv = true
  cv : s.status.cv = true → t.status.cv = true
  cseq : t.cseq = s.cseq ∨ t.cseq = s.cseq + 1#32

theorem GoesOn.refl (s : State) : GoesOn s s := ⟨id, id, id, id, .inl rfl⟩

/-- `GoesOn` looks at `STATUS` and the count only, not at the payload in hand or the host's actions. -/
theorem GoesOn.of_same_status {u : State} (h : GoesOn u t) (hstatus : u.status = s.status) (hcseq : u.cseq = s.cseq) :
    GoesOn s t :=
  ⟨hstatus ▸ h.fatal, hstatus ▸ h.ev, hstatus ▸ h.xv, hstatus ▸ h.cv, hcseq ▸ h.cseq⟩

/-- An error writes `ERR`, may set `FATAL`, and counts its command (R222, R223). -/
theorem goesOn_raise (s : State) (e : Err) : GoesOn s (s.raise e) :=
  ⟨fun h => by simp [h], id, id, id, .inr rfl⟩

/-- What the pseudocode of a command writes sets flags at most, and its normal end counts the command (R221). -/
theorem BodyWrites.goesOn_retire {din : List Byte} {i : Instr} (h : BodyWrites s din i t) (out : List Byte) :
    GoesOn s (t.retire out) where
  fatal hs := by simp [h.fatal, hs]
  ev hs := h.ev_iff.2 (.inl hs)
  xv hs := h.xv_iff.2 (.inl hs)
  cv hs := h.cv_iff.2 (.inl hs)
  cseq := .inr (congrArg (· + 1#32) h.cseq)

/-- A command presented clears no flag, accepted or not, and however it ends. -/
theorem presentCommand_goesOn {c : Command} (h : presentCommand c s = .next t) : GoesOn s t := by
  cases hf : s.status.fatal with
  | true =>
    rw [presentCommand_fatal hf] at h
    cases h
    exact .refl s
  | false =>
    rcases presentCommand_ends hf h with ⟨e, rfl⟩ | ⟨i, u, out, -, hbody, rfl⟩
    · exact (goesOn_raise (s.accept c.payload) e).of_same_status rfl rfl
    · exact ((commandBody_writes hbody).goesOn_retire out).of_same_status rfl rfl

/-- A step clears no flag and does not set the count back, or the host's action was a reset. -/
theorem step_goesOn_or_reset (h : step s = .next t) :
    GoesOn s t ∨ ∃ rest, s.host = .reset :: rest ∨ ∃ c, s.host = .commandThenReset c :: rest := by
  rcases step_next h with ⟨-, rfl⟩ | ⟨c, rest, -, hpresent⟩ | ⟨rest, hreset, -⟩
  · exact .inl (.refl t)
  · exact .inl ((presentCommand_goesOn hpresent).of_same_status rfl rfl)
  · exact .inr ⟨rest, hreset⟩

/-- A count that goes on reaches 0 from 0 or by its wrap (R32). -/
theorem GoesOn.cseq_zero (h : GoesOn s t) (ht : t.cseq = 0#32) : s.cseq = 0#32 ∨ s.cseq = 0xFFFFFFFF#32 := by
  rcases h.cseq with hstays | hnext
  · exact .inl (hstays ▸ ht)
  · right
    have hwrap : s.cseq + 1#32 = 0#32 := hnext ▸ ht
    bv_omega

end Sys2Proof.Machine
end

section
/-! The statements of 70_reset_and_hazards. -/

namespace Sys2Proof.Machine

/-- Settles O12: a step that is no reset goes on, and what goes on clears no flag and reaches a count of 0 only from 0
or by the wrap. -/
theorem resetIsTheOnlyWayBack : Obligations.ResetIsTheOnlyWayBack := by
  unfold Obligations.ResetIsTheOnlyWayBack
  intro s t hstep hback
  refine (step_goesOn_or_reset hstep).resolve_left fun hon => ?_
  rcases hback with ⟨hs, ht⟩ | ⟨hs, ht⟩ | ⟨hs, ht⟩ | ⟨hs, ht⟩ | ⟨hzero, hlast, ht⟩
  · simp [hon.fatal hs] at ht
  · simp [hon.ev hs] at ht
  · simp [hon.xv hs] at ht
  · simp [hon.cv hs] at ht
  · exact (hon.cseq_zero ht).elim hzero hlast

/-- Settles O10: a reset takes every register from the reset state, whose values are O11's, and leaves the host's
further actions and the reading of `PLUG_OVERLAP`. -/
theorem resetGivesStatedValues : Obligations.ResetGivesStatedValues := by
  unfold Obligations.ResetGivesStatedValues
  intro s c rest hhost
  obtain ⟨hword, -, -, -, -, -, houtlen, hcseq, hdout, hn⟩ := resetStateHasStatedValues
  exact ⟨_, step_reset hhost, hword, houtlen, hcseq, hdout, hn, rfl, rfl, rfl⟩

end Sys2Proof.Machine
end
